-- ==== Sys2Proof/Word.lean ====
section
/-! DEFINITION. The bit-vector types of the SP-XYM codec block: a byte, the 16-bit CRC, the 32-bit register word and the
13-bit offset in the block's window (00_scope.md R8, 20_memory.md R70). All values are unsigned. -/

namespace Sys2Proof

/-- u8: a buffer byte, a command operand, the checksum (00_scope.md R8). -/
abbrev Byte := BitVec 8

/-- u16: the CRC accumulator (10_state.md R37). -/
abbrev Half := BitVec 16

/-- u32: a register or a command word (10_state.md R30, 30_encoding.md R100). -/
abbrev Word := BitVec 32

/-- A byte offset 0x0000..0x1FFF in the block's 8192-byte window (20_memory.md R70). -/
abbrev Offset := BitVec 13

end Sys2Proof
end

