-- ==== Sys2Proof/Syntax.lean ====
section
/-! DEFINITION. The commands of the block: one constructor per row of spec/opcode_table.json (30_encoding.md R102), each
with exactly the operands its row gives it. -/

namespace Sys2Proof

/-- The pad select of FRM_ENCODE, field P of the command word (30_encoding.md R100, 42_block_codec.md R151). -/
inductive Pad where
  | sub
  | nul
deriving DecidableEq, Repr

/-- The 18 commands (30_encoding.md R102). -/
inductive Instr where
  | nop
  | sessInit (e : Byte)
  | crcInit
  | crcByte (b : Byte)
  | crcPbuf
  | csumInit
  | csumByte (b : Byte)
  | csumPbuf
  | frmEncode (h sq : Byte) (pad : Pad)
  | frmCtrl (c : Byte)
  | frmDecode
  | seqCheck
  | seqAdvance
  | normReset
  | normByte (b : Byte)
  | normFlush
  | deliver
  | obufClear
deriving DecidableEq, Repr

end Sys2Proof
end

