-- ==== Sys2Proof/WellFormed.lean ====
section
/-! DEFINITION. Which command words are legal (30_encoding.md R103), by the match and mask of spec/opcode_table.json. Every
term of `Instr` is well formed as it stands: its operands have exactly the widths of their fields. What can be ill formed is
the 32-bit word the host writes, and this file says when it is, independently of the decoder. -/

namespace Sys2Proof

/-- One row of spec/opcode_table.json: a word is this row's when `word &&& mask = mtch`. -/
structure OpcodeRow where
  mnemonic : String
  mtch : Word
  mask : Word
deriving DecidableEq, Repr

/-- The system and checksum rows of spec/opcode_table.json. -/
def opcodeRowsLow : List OpcodeRow :=
  [ ⟨"NOP", 0x00000000#32, 0xFFFFFFFF#32⟩,
    ⟨"SESS_INIT", 0x00000001#32, 0xFFFF00FF#32⟩,
    ⟨"CRC_INIT", 0x00000010#32, 0xFFFFFFFF#32⟩,
    ⟨"CRC_BYTE", 0x00000011#32, 0xFFFF00FF#32⟩,
    ⟨"CRC_PBUF", 0x00000012#32, 0xFFFFFFFF#32⟩,
    ⟨"CSUM_INIT", 0x00000018#32, 0xFFFFFFFF#32⟩,
    ⟨"CSUM_BYTE", 0x00000019#32, 0xFFFF00FF#32⟩,
    ⟨"CSUM_PBUF", 0x0000001A#32, 0xFFFFFFFF#32⟩ ]

/-- The framer and normalizer rows of spec/opcode_table.json. -/
def opcodeRowsHigh : List OpcodeRow :=
  [ ⟨"FRM_ENCODE", 0x00000020#32, 0xFE0000FF#32⟩,
    ⟨"FRM_CTRL", 0x00000021#32, 0xFFFF00FF#32⟩,
    ⟨"FRM_DECODE", 0x00000022#32, 0xFFFFFFFF#32⟩,
    ⟨"SEQ_CHECK", 0x00000028#32, 0xFFFFFFFF#32⟩,
    ⟨"SEQ_ADVANCE", 0x00000029#32, 0xFFFFFFFF#32⟩,
    ⟨"NORM_RESET", 0x00000030#32, 0xFFFFFFFF#32⟩,
    ⟨"NORM_BYTE", 0x00000031#32, 0xFFFF00FF#32⟩,
    ⟨"NORM_FLUSH", 0x00000032#32, 0xFFFFFFFF#32⟩,
    ⟨"DELIVER", 0x00000033#32, 0xFFFFFFFF#32⟩,
    ⟨"OBUF_CLEAR", 0x00000034#32, 0xFFFFFFFF#32⟩ ]

/-- The opcode table (spec/opcode_table.json, 30_encoding.md R102). -/
def opcodeRows : List OpcodeRow := opcodeRowsLow ++ opcodeRowsHigh

/-- The word is one of the row's: `(word & mask) == match` (30_encoding.md R103). -/
def OpcodeRow.covers (r : OpcodeRow) (w : Word) : Bool := w &&& r.mask == r.mtch

/-- The word is legal: some row of the opcode table covers it (30_encoding.md R103). -/
def legalWord (w : Word) : Bool := opcodeRows.any (·.covers w)

end Sys2Proof
end

