-- ==== Sys2Proof/Decode.lean ====
section
/-! DEFINITION. The decoder of command words (30_encoding.md R100 to R104, R112), total on all 2^32 words and rejecting each
illegal word by name, and after it the encoder written from the same encoding table. -/

namespace Sys2Proof

/-- Why a word is illegal, in the order of the checks of 30_encoding.md R112. The block reports every one of them as
ERR_ILLEGAL (30_encoding.md R104). -/
inductive Illegal where
  | unknownOpcode
  | reservedBits
  | operandA
  | operandB
  | operandP
deriving DecidableEq, Repr

/-- What the decoder answers: the command, or the reason the word is none. -/
inductive Decoded where
  | command (i : Instr)
  | illegal (why : Illegal)
deriving DecidableEq, Repr

/-! ## The fields of a command word (30_encoding.md R100) -/

/-- OPC, bits [7:0]. -/
def fieldOpc (w : Word) : Byte := w.extractLsb' 0 8

/-- A, bits [15:8]. -/
def fieldA (w : Word) : Byte := w.extractLsb' 8 8

/-- B, bits [23:16]. -/
def fieldB (w : Word) : Byte := w.extractLsb' 16 8

/-- P, bit [24]. -/
def fieldP (w : Word) : Bool := w.getLsbD 24

/-- RSV, bits [31:25]. -/
def fieldRsv (w : Word) : BitVec 7 := w.extractLsb' 25 7

/-- The pad select by field P: 0 = SUB, 1 = NUL (30_encoding.md R100). -/
def padOfBit (p : Bool) : Pad := if p then .nul else .sub

/-- The bit of a pad select (30_encoding.md R100). -/
def padBit : Pad → Bool
  | .sub => false
  | .nul => true

/-! ## The opcode map (30_encoding.md R102) -/

/-- One row of the opcode map: which of the fields A, B and P the command uses (a field it does not use must be zero), and
the command with the operands A, B, P (30_encoding.md R101, R102). -/
structure OpMapRow where
  usesA : Bool
  usesB : Bool
  usesP : Bool
  build : Byte → Byte → Bool → Instr

/-- A row with no operand field. -/
def rowPlain (i : Instr) : OpMapRow := ⟨false, false, false, fun _ _ _ => i⟩

/-- A row whose only operand is the byte A. -/
def rowByte (f : Byte → Instr) : OpMapRow := ⟨true, false, false, fun a _ _ => f a⟩

/-- OPMAP(opc) of 30_encoding.md R112; none for the 238 opcodes R102 does not list. -/
def opMap (opc : Byte) : Option OpMapRow :=
  match opc.toNat with
  | 0x00 => some (rowPlain .nop)
  | 0x01 => some (rowByte .sessInit)
  | 0x10 => some (rowPlain .crcInit)
  | 0x11 => some (rowByte .crcByte)
  | 0x12 => some (rowPlain .crcPbuf)
  | 0x18 => some (rowPlain .csumInit)
  | 0x19 => some (rowByte .csumByte)
  | 0x1A => some (rowPlain .csumPbuf)
  | 0x20 => some ⟨true, true, true, fun a b p => .frmEncode a b (padOfBit p)⟩
  | 0x21 => some (rowByte .frmCtrl)
  | 0x22 => some (rowPlain .frmDecode)
  | 0x28 => some (rowPlain .seqCheck)
  | 0x29 => some (rowPlain .seqAdvance)
  | 0x30 => some (rowPlain .normReset)
  | 0x31 => some (rowByte .normByte)
  | 0x32 => some (rowPlain .normFlush)
  | 0x33 => some (rowPlain .deliver)
  | 0x34 => some (rowPlain .obufClear)
  | _ => none

/-- The checks of 30_encoding.md R112 on a word whose opcode has the row `r`. -/
def decodeRow (r : OpMapRow) (w : Word) : Decoded :=
  if fieldRsv w ≠ 0 then .illegal .reservedBits
  else if !r.usesA && fieldA w ≠ 0 then .illegal .operandA
  else if !r.usesB && fieldB w ≠ 0 then .illegal .operandB
  else if !r.usesP && fieldP w then .illegal .operandP
  else .command (r.build (fieldA w) (fieldB w) (fieldP w))

/-- The decoder of 30_encoding.md R112. It reads nothing but the word. -/
def decode (w : Word) : Decoded :=
  match opMap (fieldOpc w) with
  | none => .illegal .unknownOpcode
  | some r => decodeRow r w

/-- The command of a decoded word, none where the word is illegal. -/
def Decoded.toOption : Decoded → Option Instr
  | .command i => some i
  | .illegal _ => none

/-- The instruction the decoder reads from an opcode-table word: a command is one 32-bit word, so a numeral of more bits is
no command (30_encoding.md R100, R106). -/
def decodeTableWord (nbits w : Nat) : Option Instr :=
  if nbits ≤ 32 ∧ w < 4294967296 then (decode (BitVec.ofNat 32 w)).toOption else none

/-! ## The encoder (30_encoding.md R100 to R102) -/

/-- The word with RSV = 0 and the fields OPC, A, B, P (30_encoding.md R100). -/
def commandWord (opc a b : Byte) (p : Bool) : Word := 0#7 ++ BitVec.ofBool p ++ b ++ a ++ opc

/-- The command word of a command (30_encoding.md R102). -/
def encode : Instr → Word
  | .nop => commandWord 0x00 0 0 false
  | .sessInit e => commandWord 0x01 e 0 false
  | .crcInit => commandWord 0x10 0 0 false
  | .crcByte b => commandWord 0x11 b 0 false
  | .crcPbuf => commandWord 0x12 0 0 false
  | .csumInit => commandWord 0x18 0 0 false
  | .csumByte b => commandWord 0x19 b 0 false
  | .csumPbuf => commandWord 0x1A 0 0 false
  | .frmEncode h sq pad => commandWord 0x20 h sq (padBit pad)
  | .frmCtrl c => commandWord 0x21 c 0 false
  | .frmDecode => commandWord 0x22 0 0 false
  | .seqCheck => commandWord 0x28 0 0 false
  | .seqAdvance => commandWord 0x29 0 0 false
  | .normReset => commandWord 0x30 0 0 false
  | .normByte b => commandWord 0x31 b 0 false
  | .normFlush => commandWord 0x32 0 0 false
  | .deliver => commandWord 0x33 0 0 false
  | .obufClear => commandWord 0x34 0 0 false

end Sys2Proof
end

