-- ==== Sys2Proof/Config.lean ====
section
/-! DEFINITION. What the spec leaves open: its three open parameters P_BASE, P_LAT and P_DBL_LE (00_scope.md R7) and its
unspecified values (93_implementation_defined.md U1 to U4). Each is a constant with no body: nothing can be proved of its
value, so a theorem of this model holds whatever the value is. -/

namespace Sys2Proof

/-- The two values of P_DBL_LE (00_scope.md R7, 44_normalizer.md R194). -/
inductive DblLe where
  | literal
  | target
deriving DecidableEq, Repr, Inhabited

namespace Config

/-- P_BASE, the host physical address of offset 0 of the window (00_scope.md R7, 20_memory.md R70). Log entry 7. -/
opaque pBase : Nat

/-- P_LAT - 1 for the command that makes draw `n`: how many host accesses may come between a command's issue and its
completion (00_scope.md R7, 70_reset_and_hazards.md R280). Log entry 2. -/
opaque extraSteps : Nat → Nat

/-- P_DBL_LE (00_scope.md R7, 44_normalizer.md R194). Log entry 6. -/
opaque dblLe : DblLe

/-- The unspecified value that the buffer byte at a window offset holds since the reset that made draw `seed`, until it is
written (10_state.md R52, 20_memory.md R78): `unwrittenByte seed offset`. Log entry 1. -/
opaque unwrittenByte : Nat → Nat → Byte

/-- The unspecified value of draw `n` that a register read returns while BUSY = 1 (20_memory.md R77). Log entry 5. -/
opaque busyReadWord : Nat → Word

/-- The unspecified value of draw `n` that a buffer read returns while BUSY = 1 (20_memory.md R77). Log entry 5. -/
opaque busyReadByte : Nat → Byte

end Config

end Sys2Proof
end

