-- ==== Sys2Proof/Machine/State.lean ====
section
/-! DEFINITION. The state of the block (10_state.md R30 to R54) as plain data, the inputs the outside world has pending
(20_memory.md R85), the reasons a step could stop, and the state after reset (10_state.md R51, 70_reset_and_hazards.md
R270). -/

namespace Sys2Proof.Machine

/-- CFG.VARIANT (10_state.md R32). The value 3 is never held (10_state.md R33). -/
inductive Variant where
  | checksum
  | crc16
  | crc16K
deriving DecidableEq, Repr

/-- CFG.MODE (10_state.md R32). -/
inductive Mode where
  | binary
  | text
deriving DecidableEq, Repr

/-- CFG.CONV, the target line-end convention (10_state.md R32). -/
inductive Conv where
  | crlf
  | lf
deriving DecidableEq, Repr

/-- The result codes 0 to 8 of STATUS.RESULT; codes 9 to 15 are never produced (60_exceptions.md R240). -/
inductive ResultCode where
  | ok
  | length
  | header
  | complement
  | integrity
  | sequence
  | illegal
  | operand
  | overflow
deriving DecidableEq, Repr

/-- STATUS.SEQCLS (10_state.md R34). -/
inductive SeqCls where
  | none
  | new
  | dup
  | ooo
deriving DecidableEq, Repr

/-- The width of a host access: 8, 16 or 32 bits, or any other, which is illegal at every offset (20_memory.md R72, R73;
log entry 7). -/
inductive Width where
  | w8
  | w16
  | w32
  | other
deriving DecidableEq, Repr

/-- One host access to the window: `MemRead(off, n)` or `MemWrite(off, n, v)` (00_scope.md R9, 20_memory.md R70). -/
inductive Access where
  | read (off : Offset) (w : Width)
  | write8 (off : Offset) (v : Byte)
  | write16 (off : Offset) (v : Half)
  | write32 (off : Offset) (v : Word)
  /-- A write of any other width. It is refused wherever it goes (20_memory.md R72 to R74), so no use is made of its
  value. -/
  | writeOther (off : Offset)
deriving DecidableEq, Repr

/-- What the outside world does to the block: a host access, a POLL of the host (30_encoding.md R111), or a reset
(70_reset_and_hazards.md R270). -/
inductive Input where
  | access (a : Access)
  | poll
  | reset
deriving DecidableEq, Repr

/-- The bus response to a host access: OKAY of a write, the value of a read, or a bus error (20_memory.md R74 to R76). -/
inductive Response where
  | okay
  | word (v : Word)
  | byte (v : Byte)
  | busError
deriving DecidableEq, Repr

/-- The bytes of the window's buffers that have been written since reset: (window offset, byte), offsets strictly rising.
A byte that is not listed has not been written since reset (20_memory.md R78). -/
abbrev Memory := List Host.Cell

/-- The canonical form of memory: strictly rising offsets. An unlisted offset has no stored value, so no entry can equal
what it reads as, and equal memories are equal lists. -/
abbrev Memory.wf (m : Memory) : Prop := m.Pairwise fun c d => c.1 < d.1

/-- The block. The fields down to `mem` are the spec's (10_state.md R30, R46, R47); the five after it are the model's own
(log entries 2, 3, 4, 13). -/
structure State where
  /-- CFG.VARIANT (10_state.md R32). -/
  variant : Variant
  /-- CFG.MODE (10_state.md R32). -/
  mode : Mode
  /-- CFG.CONV (10_state.md R32). -/
  conv : Conv
  /-- CMDLATCH (10_state.md R46). -/
  cmdLatch : Word
  /-- STATUS.RESULT (10_state.md R34). -/
  result : ResultCode
  /-- STATUS.BUSY (10_state.md R34, R46). -/
  busy : Bool
  /-- STATUS.SEQCLS (10_state.md R34). -/
  seqCls : SeqCls
  /-- STATUS.Z0 (10_state.md R34). -/
  z0 : Bool
  /-- STATUS.ERRS, sticky (10_state.md R34). -/
  errs : Bool
  /-- STATUS.OVR, sticky (10_state.md R34). -/
  ovr : Bool
  /-- The CRC accumulator (10_state.md R37). -/
  crc : Half
  /-- The checksum accumulator (10_state.md R38). -/
  csum : Byte
  /-- EXPECT, the expected sequence number (10_state.md R39). -/
  expect : Byte
  /-- HDR (10_state.md R40). -/
  hdr : Byte
  /-- SEQ (10_state.md R41). -/
  seq : Byte
  /-- PLEN (10_state.md R42). -/
  plen : BitVec 11
  /-- FLEN (10_state.md R43). -/
  flen : BitVec 11
  /-- OCNT (10_state.md R44). -/
  ocnt : BitVec 12
  /-- The normalizer's carry: `none` is PV = 0, PB = 0x00 and `some b` is PV = 1, PB = b (10_state.md R45,
  44_normalizer.md R190). Log entry 8. -/
  carry : Option Byte
  /-- PBUF, FBUF and OBUF at their window offsets (10_state.md R47, 20_memory.md R71). -/
  mem : Memory
  /-- How many host accesses may still come before the command in flight completes (70_reset_and_hazards.md R280). -/
  lat : Nat
  /-- What the outside world has pending, oldest first (20_memory.md R85). -/
  inputs : List Input
  /-- The bus response to the last host access since reset. -/
  response : Option Response
  /-- The number of the next free draw. -/
  fresh : Nat
  /-- The draw that fixed the unspecified buffer bytes of this reset (20_memory.md R78). -/
  bufSeed : Nat
deriving DecidableEq, Repr

/-- The block has no traps (60_exceptions.md R245) and every access and every command word has an effect or a response, so
no step stops with a fault: there is no constructor. -/
inductive Fault where
deriving DecidableEq, Repr

/-- Reasons a step has no meaning. Every command of the block has its meaning, so none is raised. -/
inductive Refusal where
  /-- A command that has no meaning in the model yet, by its mnemonic; raised by no arm of `exec`. Safe: the model stops
  where the block goes on. -/
  | notModelled (mnemonic : String)
deriving DecidableEq, Repr

/-- What running a command answers. -/
abbrev Outcome := Host.Outcome State Fault Refusal

/-- The state after reset (10_state.md R51, R52, 70_reset_and_hazards.md R270): every register at the reset value of
10_state.md R30, no command in flight, no buffer byte written. The values of the last five fields are the model's own
(log entry 13). -/
def State.reset : State where
  variant := .crc16
  mode := .binary
  conv := .crlf
  cmdLatch := 0x00000000#32
  result := .ok
  busy := false
  seqCls := .none
  z0 := false
  errs := false
  ovr := false
  crc := 0x0000#16
  csum := 0x00#8
  expect := 0x01#8
  hdr := 0x00#8
  seq := 0x00#8
  plen := 0#11
  flen := 0#11
  ocnt := 0#12
  carry := none
  mem := []
  lat := 0
  inputs := []
  response := none
  fresh := 1
  bufSeed := 0

end Sys2Proof.Machine
end

