-- ==== Sys2Proof/Machine/Ops.lean ====
section
/-! DEFINITION. The named operations over buffers and registers that the commands share: reading and writing buffer bytes,
the completion of a command by `finish` (00_scope.md R10), and the two questions the step asks of the schedule. The block
has no traps (60_exceptions.md R245): `State.raise` below is all that a failing command does. -/

namespace Sys2Proof.Machine

/-! ## The window's buffers (20_memory.md R71, 00_scope.md R6) -/

/-- The window offset of PBUF[0]. -/
def pbufBase : Nat := 0x0400

/-- The window offset of FBUF[0]. -/
def fbufBase : Nat := 0x0800

/-- The window offset of OBUF[0]. -/
def obufBase : Nat := 0x1000

/-- PBUF_SIZE. -/
def pbufSize : Nat := 1024

/-- FBUF_SIZE. -/
def fbufSize : Nat := 1029

/-- OBUF_SIZE. -/
def obufSize : Nat := 2050

/-- The window offset lies in the `size` bytes from `base`. -/
def inRegion (base size a : Nat) : Bool := decide (base ≤ a) && decide (a < base + size)

/-- The window offset is that of a buffer byte (20_memory.md R71). -/
def inBuffer (a : Nat) : Bool :=
  inRegion pbufBase pbufSize a || inRegion fbufBase fbufSize a || inRegion obufBase obufSize a

/-! ## Bytes of memory -/

/-- The byte stored at an offset, none where nothing has been written since reset. -/
def Memory.lookup : Memory → Nat → Option Byte
  | [], _ => none
  | c :: m, a => if c.1 = a then some c.2 else Memory.lookup m a

/-- The cells that hold the bytes `bs` from offset `a` on. -/
def Memory.cells : Nat → List Byte → Memory
  | _, [] => []
  | a, b :: bs => (a, b) :: Memory.cells (a + 1) bs

/-- `BUF[a + j] <- bs[j]` for every j (00_scope.md R9): the bytes `bs` from offset `a` on, every other offset as before. -/
def Memory.write (m : Memory) (a : Nat) (bs : List Byte) : Memory :=
  m.filter (fun c => decide (c.1 < a)) ++ Memory.cells a bs ++ m.filter (fun c => decide (a + bs.length ≤ c.1))

/-- The value of the buffer byte at a window offset: what was last written there, or this reset's unspecified value where
nothing was (10_state.md R52, 20_memory.md R78). -/
def State.byteAt (s : State) (a : Nat) : Byte := (s.mem.lookup a).getD (Config.unwrittenByte s.bufSeed a)

/-- `BUF[a..a+n)` (00_scope.md R9). -/
def State.bytesAt (s : State) (a n : Nat) : List Byte := (List.range n).map fun i => s.byteAt (a + i)

/-! ## Completion of a command (00_scope.md R10) -/

/-- `finish(OK)` on the state in which the command's pending writes are made. -/
def State.finishOk (s : State) : State := { s with result := .ok, busy := false }

/-- `finish(c)` with c nonzero, `raise c` (00_scope.md R9, R10): no pending write is made. -/
def State.raise (s : State) (c : ResultCode) : State := { s with result := c, errs := true, busy := false }

/-! ## The schedule -/

/-- The next step is the completion of the command in flight: BUSY = 1 and either its latency has run out or the outside
world has nothing pending (70_reset_and_hazards.md R280; log entry 2). -/
def State.completionDue (s : State) : Bool := s.busy && (decide (s.lat = 0) || s.inputs.isEmpty)

end Sys2Proof.Machine
end

