-- ==== Sys2Proof/Machine/Operands.lean ====
section
/-! DEFINITION. The operands commands take besides the fields of their word (30_encoding.md R101): wire bytes, pad bytes,
the sizes a header and a variant give a frame, and the buffers' contents. -/

namespace Sys2Proof.Machine

/-! ## Wire bytes (00_scope.md R11, R12) -/

def soh : Byte := 0x01
def stx : Byte := 0x02
def eot : Byte := 0x04
def ack : Byte := 0x06
def nak : Byte := 0x15
def can : Byte := 0x18
/-- SUB, the pad byte of data blocks. -/
def subByte : Byte := 0x1A
/-- `C`, the CRC handshake request. -/
def chrC : Byte := 0x43
/-- NUL, the pad byte of YMODEM block 0. -/
def nul : Byte := 0x00
def crByte : Byte := 0x0D
def lfByte : Byte := 0x0A

/-- The pad byte of a pad select (42_block_codec.md R151). -/
def padByte : Pad → Byte
  | .sub => subByte
  | .nul => nul

/-! ## Frame parameters (42_block_codec.md R150 to R154) -/

/-- The byte is SOH or STX. -/
def isDataHeader (h : Byte) : Bool := h == soh || h == stx

/-- The byte is in CTRL (42_block_codec.md R154). -/
def isControl (c : Byte) : Bool := c == eot || c == ack || c == nak || c == can || c == chrC

/-- The header may start a data frame under the variant (42_block_codec.md R150, 90_conflicts.md C4). -/
def headerLegal (v : Variant) (h : Byte) : Bool := h == soh || (h == stx && v == .crc16K)

/-- P, the payload size of a data header: 128 for SOH, 1024 for STX (42_block_codec.md R150). -/
def payloadSize (h : Byte) : Nat := if h = soh then 128 else 1024

/-- T, the trailer size of a variant (42_block_codec.md R150). -/
def trailerSize : Variant → Nat
  | .checksum => 1
  | .crc16 => 2
  | .crc16K => 2

/-- FL(h, VARIANT), the length of a data frame (42_block_codec.md R152). -/
def frameLength (v : Variant) (h : Byte) : Nat := 3 + payloadSize h + trailerSize v

/-- The payload filled up with pad bytes to the header's size (42_block_codec.md R151, R155). -/
def paddedPayload (h : Byte) (pad : Pad) (data : List Byte) : List Byte :=
  data ++ List.replicate (payloadSize h - data.length) (padByte pad)

/-! ## Buffers (10_state.md R47) -/

/-- `PBUF[0..n)`. -/
def State.pbufBytes (s : State) (n : Nat) : List Byte := s.bytesAt pbufBase n

/-- `FBUF[i]`. -/
def State.fbufByte (s : State) (i : Nat) : Byte := s.byteAt (fbufBase + i)

/-- `FBUF[i..i+n)`. -/
def State.fbufBytes (s : State) (i n : Nat) : List Byte := s.bytesAt (fbufBase + i) n

end Sys2Proof.Machine
end

