-- ==== Sys2Proof/Machine/Flags.lean ====
section
/-! DEFINITION. The STATUS flags that commands compute (10_state.md R53) and the bit encodings of the registers' fields
(10_state.md R30, R32, R34, 30_encoding.md R109, 60_exceptions.md R240). -/

namespace Sys2Proof.Machine

/-! ## Computed flags -/

/-- `classify(seq, expect)` (43_sequence.md R180). -/
def classify (sq expect : Byte) : SeqCls :=
  if sq = expect then .new else if sq = expect - 1 then .dup else .ooo

/-- STATUS.Z0 of a decoded payload: its byte 0 is 0x00 (42_block_codec.md R160). -/
def payloadZero (pay : List Byte) : Bool := pay.head? == some nul

/-! ## Field encodings -/

/-- CFG[1:0] (10_state.md R32). -/
def Variant.bits : Variant → BitVec 2
  | .checksum => 0
  | .crc16 => 1
  | .crc16K => 2

/-- What a write of CFG[1:0] makes of VARIANT: 3 leaves it as it is (10_state.md R33). -/
def Variant.ofWrite (old : Variant) (b : BitVec 2) : Variant :=
  if b = 0 then .checksum else if b = 1 then .crc16 else if b = 2 then .crc16K else old

/-- CFG[2] (10_state.md R32). -/
def Mode.bit : Mode → Bool
  | .binary => false
  | .text => true

/-- MODE by CFG[2] (10_state.md R32). -/
def Mode.ofBit (b : Bool) : Mode := if b then .text else .binary

/-- CFG[3] (10_state.md R32). -/
def Conv.bit : Conv → Bool
  | .crlf => false
  | .lf => true

/-- CONV by CFG[3] (10_state.md R32). -/
def Conv.ofBit (b : Bool) : Conv := if b then .lf else .crlf

/-- STATUS.RESULT's code (60_exceptions.md R240). -/
def ResultCode.bits : ResultCode → BitVec 4
  | .ok => 0
  | .length => 1
  | .header => 2
  | .complement => 3
  | .integrity => 4
  | .sequence => 5
  | .illegal => 6
  | .operand => 7
  | .overflow => 8

/-- STATUS.SEQCLS's code (10_state.md R34). -/
def SeqCls.bits : SeqCls → BitVec 2
  | .none => 0
  | .new => 1
  | .dup => 2
  | .ooo => 3

/-! ## Whole registers, reserved bits 0 (10_state.md R30, R50) -/

/-- CFG as the host reads it. -/
def State.cfgWord (s : State) : Word := 0#28 ++ BitVec.ofBool s.conv.bit ++ BitVec.ofBool s.mode.bit ++ s.variant.bits

/-- STATUS as the host reads it. -/
def State.statusWord (s : State) : Word :=
  0#22 ++ BitVec.ofBool s.ovr ++ BitVec.ofBool s.errs ++ BitVec.ofBool s.z0 ++ s.seqCls.bits ++ BitVec.ofBool s.busy ++
    s.result.bits

/-- NSTATE.PV: a byte is pending (10_state.md R45). -/
def State.pv (s : State) : Bool := s.carry.isSome

/-- NSTATE.PB: the pending byte, 0x00 when none is (10_state.md R45). -/
def State.pb (s : State) : Byte := s.carry.getD 0x00

/-- NSTATE as the host reads it. -/
def State.nstateWord (s : State) : Word := 0#23 ++ BitVec.ofBool s.pv ++ s.pb

end Sys2Proof.Machine
end

