-- ==== Sys2Proof/Machine/Checksum.lean ====
section
/-! DEFINITION. The CRC-16/CCITT generator and the 8-bit checksum unit (41_checksum_crc.md R130 to R138). -/

namespace Sys2Proof.Machine

/-! ## The functions -/

/-- One turn of the loop of `crc_step` (41_checksum_crc.md R130). -/
def crcShift (c : Half) : Half := if c.getLsbD 15 then (c <<< 1) ^^^ 0x1021#16 else c <<< 1

/-- `n` turns of the loop. -/
def crcShifts : Nat → Half → Half
  | 0, c => c
  | n + 1, c => crcShifts n (crcShift c)

/-- `crc_step(c, b)` (41_checksum_crc.md R130). -/
def crcStep (c : Half) (b : Byte) : Half := crcShifts 8 (c ^^^ (b ++ 0#8))

/-- `crc_step` folded over the bytes in index order, from `c` (41_checksum_crc.md R131, R135). -/
def crcFrom (c : Half) (data : List Byte) : Half := data.foldl crcStep c

/-- `crc16(data)` (41_checksum_crc.md R131). -/
def crc16 (data : List Byte) : Half := crcFrom 0x0000 data

/-- The sum modulo 256 of the bytes, from `c` (41_checksum_crc.md R132, R138). -/
def checksumFrom (c : Byte) (data : List Byte) : Byte := data.foldl (· + ·) c

/-- `checksum(data)` (41_checksum_crc.md R132). -/
def checksum (data : List Byte) : Byte := checksumFrom 0x00 data

/-! ## The commands -/

/-- CRC_INIT (41_checksum_crc.md R133). -/
def execCrcInit (s : State) : Outcome := .next { s with crc := 0x0000 }.finishOk

/-- CRC_BYTE b (41_checksum_crc.md R134). -/
def execCrcByte (b : Byte) (s : State) : Outcome := .next { s with crc := crcStep s.crc b }.finishOk

/-- CRC_PBUF (41_checksum_crc.md R135). -/
def execCrcPbuf (s : State) : Outcome :=
  if s.plen.toNat > pbufSize then .next (s.raise .operand)
  else .next { s with crc := crcFrom s.crc (s.pbufBytes s.plen.toNat) }.finishOk

/-- CSUM_INIT (41_checksum_crc.md R136). -/
def execCsumInit (s : State) : Outcome := .next { s with csum := 0x00 }.finishOk

/-- CSUM_BYTE b (41_checksum_crc.md R137). -/
def execCsumByte (b : Byte) (s : State) : Outcome := .next { s with csum := s.csum + b }.finishOk

/-- CSUM_PBUF (41_checksum_crc.md R138). -/
def execCsumPbuf (s : State) : Outcome :=
  if s.plen.toNat > pbufSize then .next (s.raise .operand)
  else .next { s with csum := checksumFrom s.csum (s.pbufBytes s.plen.toNat) }.finishOk

end Sys2Proof.Machine
end

