-- ==== Sys2Proof/Machine/Codec.lean ====
section
/-! DEFINITION. The XMODEM/YMODEM block framer and deframer (42_block_codec.md R150 to R160, 30_encoding.md R107, R108). -/

namespace Sys2Proof.Machine

/-! ## Frames -/

/-- `trailer(VARIANT, pay)` (42_block_codec.md R153): the checksum, or the CRC high byte first (20_memory.md R79). -/
def trailer (v : Variant) (pay : List Byte) : List Byte :=
  match v with
  | .checksum => [checksum pay]
  | .crc16 => [(crc16 pay).extractLsb' 8 8, (crc16 pay).extractLsb' 0 8]
  | .crc16K => [(crc16 pay).extractLsb' 8 8, (crc16 pay).extractLsb' 0 8]

/-- The data frame of a header, a sequence byte and a whole payload (30_encoding.md R107). -/
def dataFrame (v : Variant) (h sq : Byte) (pay : List Byte) : List Byte :=
  [h, sq, 0xFF - sq] ++ pay ++ trailer v pay

/-- What FRM_DECODE makes of a frame: the error it reports, a control frame, or a data frame's header, sequence byte and
payload. -/
inductive Verdict where
  | reject (c : ResultCode)
  | control (h : Byte)
  | data (h sq : Byte) (pay : List Byte)
deriving DecidableEq, Repr

/-- The checks on a data frame once its header and its length are right (42_block_codec.md R157, R158 steps 4 and 5):
`s` is FBUF[1], `k` FBUF[2], `pay` the payload and `tr` the trailer bytes of the frame. -/
def dataVerdict (v : Variant) (h s k : Byte) (pay tr : List Byte) : Verdict :=
  if k ≠ 0xFF - s then .reject .complement
  else if tr ≠ trailer v pay then .reject .integrity
  else .data h s pay

/-- FRM_DECODE's checks on FBUF[0..FLEN), in the order of 42_block_codec.md R157 and R158. -/
def State.frameVerdict (s : State) : Verdict :=
  let h := s.fbufByte 0
  if s.flen.toNat = 0 then .reject .length
  else if isControl h then (if s.flen.toNat ≠ 1 then .reject .length else .control h)
  else if !isDataHeader h then .reject .header
  else if !headerLegal s.variant h then .reject .header
  else if s.flen.toNat ≠ frameLength s.variant h then .reject .length
  else dataVerdict s.variant h (s.fbufByte 1) (s.fbufByte 2) (s.fbufBytes 3 (payloadSize h))
    (s.fbufBytes (3 + payloadSize h) (trailerSize s.variant))

/-! ## The commands -/

/-- FBUF[0..len) <- frame and FLEN <- len (42_block_codec.md R155, R156). -/
def State.storeFrame (s : State) (frame : List Byte) : State :=
  { s with mem := s.mem.write fbufBase frame, flen := BitVec.ofNat 11 frame.length }

/-- FRM_ENCODE h, s, pad (42_block_codec.md R155). -/
def execFrmEncode (h sq : Byte) (pad : Pad) (s : State) : Outcome :=
  if !isDataHeader h then .next (s.raise .operand)
  else if !headerLegal s.variant h then .next (s.raise .operand)
  else if s.plen.toNat > payloadSize h then .next (s.raise .operand)
  else .next (s.storeFrame (dataFrame s.variant h sq (paddedPayload h pad (s.pbufBytes s.plen.toNat)))).finishOk

/-- FRM_CTRL c (42_block_codec.md R156). -/
def execFrmCtrl (c : Byte) (s : State) : Outcome :=
  if isControl c then .next (s.storeFrame [c]).finishOk else .next (s.raise .operand)

/-- The writes of an accepted control frame (42_block_codec.md R157). -/
def State.acceptControl (s : State) (h : Byte) : State := { s with hdr := h, z0 := false }

/-- The writes of an accepted data frame (42_block_codec.md R157, R160). -/
def State.acceptData (s : State) (h sq : Byte) (pay : List Byte) : State :=
  { s with hdr := h, seq := sq, plen := BitVec.ofNat 11 pay.length, mem := s.mem.write pbufBase pay, z0 := payloadZero pay }

/-- FRM_DECODE (42_block_codec.md R157). -/
def execFrmDecode (s : State) : Outcome :=
  match s.frameVerdict with
  | .reject c => .next (s.raise c)
  | .control h => .next (s.acceptControl h).finishOk
  | .data h sq pay => .next (s.acceptData h sq pay).finishOk

end Sys2Proof.Machine
end

