-- ==== Sys2Proof/Machine/Normalizer.lean ====
section
/-! DEFINITION. The line-ending byte-pair normalizer and its output buffer (44_normalizer.md R190 to R204). The functions
take P_DBL_LE as the argument `p`; the commands give them `Config.dblLe`. A carry is `none` for PV = 0 and `some b` for
PV = 1, PB = b. -/

namespace Sys2Proof.Machine

/-! ## The pair function -/

/-- The byte classes of 00_scope.md R11. -/
inductive ByteClass where
  | cr
  | lf
  | sub
  | other
deriving DecidableEq, Repr

/-- `class(b)` (00_scope.md R11). -/
def classOf (b : Byte) : ByteClass :=
  if b = crByte then .cr else if b = lfByte then .lf else if b = subByte then .sub else .other

/-- LE, the target line-end (44_normalizer.md R191). -/
def lineEnd : Conv → List Byte
  | .crlf => [crByte, lfByte]
  | .lf => [lfByte]

/-- DBL, the output of the cells (CR, CR) and (LF, LF) (44_normalizer.md R194). Under CRLF both readings of P_DBL_LE are
the same four bytes. -/
def doubleEnd (p : DblLe) : Conv → List Byte
  | .crlf => [crByte, lfByte, crByte, lfByte]
  | .lf =>
    match p with
    | .literal => [crByte, lfByte, crByte, lfByte]
    | .target => lineEnd .lf ++ lineEnd .lf

/-- `pair(f, s)`: the output and the new carry (44_normalizer.md R192, with the SUB row of R195 and 90_conflicts.md C2). -/
def pair (p : DblLe) (c : Conv) (f s : Byte) : List Byte × Option Byte :=
  match classOf f, classOf s with
  | .cr, .cr => (doubleEnd p c, none)
  | .cr, .lf => (lineEnd c, none)
  | .cr, .sub => (lineEnd c, none)
  | .cr, .other => (lineEnd c, some s)
  | .lf, .cr => (lineEnd c, none)
  | .lf, .lf => (doubleEnd p c, none)
  | .lf, .sub => (lineEnd c, none)
  | .lf, .other => (lineEnd c, some s)
  | .sub, .cr => ([], some s)
  | .sub, .lf => ([], some s)
  | .sub, .sub => ([], none)
  | .sub, .other => ([s], none)
  | .other, .cr => ([f], some s)
  | .other, .lf => ([f], some s)
  | .other, .sub => ([f], none)
  | .other, .other => ([f, s], none)

/-! ## Step and flush -/

/-- `nstep(PV, PB, b)` (44_normalizer.md R197). -/
def nstep (p : DblLe) (c : Conv) (carry : Option Byte) (b : Byte) : List Byte × Option Byte :=
  match carry with
  | none => ([], some b)
  | some f => pair p c f b

/-- `nflush(PV, PB)` (44_normalizer.md R196, R198). -/
def nflush (p : DblLe) (c : Conv) (carry : Option Byte) : List Byte × Option Byte :=
  match carry with
  | none => ([], none)
  | some f => ((pair p c f subByte).1, none)

/-- `nstep` over the bytes in order, the outputs joined (the TEXT loop of 44_normalizer.md R202). -/
def nrun (p : DblLe) (c : Conv) : Option Byte → List Byte → List Byte × Option Byte
  | carry, [] => ([], carry)
  | carry, b :: bs =>
    ((nstep p c carry b).1 ++ (nrun p c (nstep p c carry b).2 bs).1, (nrun p c (nstep p c carry b).2 bs).2)

/-! ## The commands -/

/-- The append and overflow rule of NORM_BYTE and NORM_FLUSH (44_normalizer.md R204): `r` is the output and the new
carry. -/
def State.appendOutput (s : State) (r : List Byte × Option Byte) : State :=
  if s.ocnt.toNat + r.1.length > obufSize then s.raise .overflow
  else
    { s with
      mem := s.mem.write (obufBase + s.ocnt.toNat) r.1
      ocnt := BitVec.ofNat 12 (s.ocnt.toNat + r.1.length)
      carry := r.2 }.finishOk

/-- NORM_RESET (44_normalizer.md R199). -/
def execNormReset (s : State) : Outcome := .next { s with carry := none }.finishOk

/-- NORM_BYTE b (44_normalizer.md R200). -/
def execNormByte (b : Byte) (s : State) : Outcome := .next (s.appendOutput (nstep Config.dblLe s.conv s.carry b))

/-- NORM_FLUSH (44_normalizer.md R201). -/
def execNormFlush (s : State) : Outcome := .next (s.appendOutput (nflush Config.dblLe s.conv s.carry))

/-- What DELIVER writes and the carry it leaves (44_normalizer.md R202): BINARY copies the payload and leaves the carry,
TEXT runs the normalizer over it. -/
def State.deliverOutput (s : State) : List Byte × Option Byte :=
  match s.mode with
  | .binary => (s.pbufBytes s.plen.toNat, s.carry)
  | .text => nrun Config.dblLe s.conv s.carry (s.pbufBytes s.plen.toNat)

/-- OBUF <- output from index 0, OCNT <- its length, and the carry (44_normalizer.md R202). -/
def State.storeOutput (s : State) (r : List Byte × Option Byte) : State :=
  { s with mem := s.mem.write obufBase r.1, ocnt := BitVec.ofNat 12 r.1.length, carry := r.2 }

/-- DELIVER (44_normalizer.md R202). -/
def execDeliver (s : State) : Outcome :=
  if s.plen.toNat > pbufSize then .next (s.raise .operand)
  else .next (s.storeOutput s.deliverOutput).finishOk

/-- OBUF_CLEAR (44_normalizer.md R203). -/
def execObufClear (s : State) : Outcome := .next { s with ocnt := 0 }.finishOk

end Sys2Proof.Machine
end

