-- ==== Sys2Proof/Machine/Sequence.lean ====
section
/-! DEFINITION. Sequence classification (43_sequence.md R180 to R182). -/

namespace Sys2Proof.Machine

/-- SEQ_CHECK (43_sequence.md R181): SEQCLS is written on every outcome, the one write that survives a nonzero result
(00_scope.md R10). -/
def execSeqCheck (s : State) : Outcome :=
  match classify s.seq s.expect with
  | .ooo => .next ({ s with seqCls := .ooo }.raise .sequence)
  | c => .next { s with seqCls := c }.finishOk

/-- SEQ_ADVANCE (43_sequence.md R182). -/
def execSeqAdvance (s : State) : Outcome := .next { s with expect := s.expect + 1 }.finishOk

end Sys2Proof.Machine
end

