-- ==== Sys2Proof/Machine/System.lean ====
section
/-! DEFINITION. The system commands (45_system.md R230, R231) and what an illegal word does (30_encoding.md R104). -/

namespace Sys2Proof.Machine

/-- NOP (45_system.md R230). -/
def execNop (s : State) : Outcome := .next s.finishOk

/-- SESS_INIT e (45_system.md R231). -/
def execSessInit (e : Byte) (s : State) : Outcome :=
  .next
    { s with
      expect := e
      carry := none
      crc := 0x0000
      csum := 0x00
      ocnt := 0
      hdr := 0x00
      seq := 0x00
      seqCls := .none
      z0 := false }.finishOk

/-- The completion of an illegal word: ERR_ILLEGAL and nothing else (30_encoding.md R104). -/
def State.completeIllegal (s : State) : Outcome := .next (s.raise .illegal)

end Sys2Proof.Machine
end

