-- ==== Sys2Proof/Machine/Dispatch.lean ====
section
/-! DEFINITION. The meaning of each command, one arm per constructor (30_encoding.md R102). -/

namespace Sys2Proof.Machine

def exec (i : Instr) (s : State) : Host.Outcome State Fault Refusal :=
  match i with
  | .nop => Sys2Proof.Machine.execNop s
  | .sessInit e => Sys2Proof.Machine.execSessInit e s
  | .crcInit => Sys2Proof.Machine.execCrcInit s
  | .crcByte b => Sys2Proof.Machine.execCrcByte b s
  | .crcPbuf => Sys2Proof.Machine.execCrcPbuf s
  | .csumInit => Sys2Proof.Machine.execCsumInit s
  | .csumByte b => Sys2Proof.Machine.execCsumByte b s
  | .csumPbuf => Sys2Proof.Machine.execCsumPbuf s
  | .frmEncode h sq pad => Sys2Proof.Machine.execFrmEncode h sq pad s
  | .frmCtrl c => Sys2Proof.Machine.execFrmCtrl c s
  | .frmDecode => Sys2Proof.Machine.execFrmDecode s
  | .seqCheck => Sys2Proof.Machine.execSeqCheck s
  | .seqAdvance => Sys2Proof.Machine.execSeqAdvance s
  | .normReset => Sys2Proof.Machine.execNormReset s
  | .normByte b => Sys2Proof.Machine.execNormByte b s
  | .normFlush => Sys2Proof.Machine.execNormFlush s
  | .deliver => Sys2Proof.Machine.execDeliver s
  | .obufClear => Sys2Proof.Machine.execObufClear s

end Sys2Proof.Machine
end

