-- ==== Sys2Proof/Machine/HostAccess.lean ====
section
/-! DEFINITION. What the outside world does to the block: host reads and writes of the window (20_memory.md R70 to R78,
10_state.md R30 to R36, R50), the host's POLL (30_encoding.md R111) and reset (70_reset_and_hazards.md R270, R271). -/

namespace Sys2Proof.Machine

/-! ## The window map (20_memory.md R71) -/

/-- The registers of 10_state.md R30. -/
inductive Reg where
  | id
  | cfg
  | cmd
  | status
  | crc
  | csum
  | expect
  | hdr
  | seq
  | plen
  | flen
  | ocnt
  | nstate
deriving DecidableEq, Repr

/-- The register at a window offset (10_state.md R30); none where the offset is not a multiple of 4 or past NSTATE. -/
def regAt (a : Nat) : Option Reg :=
  match a with
  | 0x000 => some .id
  | 0x004 => some .cfg
  | 0x008 => some .cmd
  | 0x00C => some .status
  | 0x010 => some .crc
  | 0x014 => some .csum
  | 0x018 => some .expect
  | 0x01C => some .hdr
  | 0x020 => some .seq
  | 0x024 => some .plen
  | 0x028 => some .flen
  | 0x02C => some .ocnt
  | 0x030 => some .nstate
  | _ => none

/-- What a legal access reaches. -/
inductive Target where
  | reg (r : Reg)
  | pbuf
  | fbuf
  | obuf
deriving DecidableEq, Repr

/-- What an access of width `w` at offset `off` reaches: a register by an aligned 32-bit access (20_memory.md R72), a buffer
byte by an 8-bit access (R73); none is a bus error (R74). -/
def targetOf (off : Offset) (w : Width) : Option Target :=
  match w with
  | .w16 => none
  | .other => none
  | .w32 => (regAt off.toNat).map .reg
  | .w8 =>
    if inRegion pbufBase pbufSize off.toNat then some .pbuf
    else if inRegion fbufBase fbufSize off.toNat then some .fbuf
    else if inRegion obufBase obufSize off.toNat then some .obuf
    else none

/-- The host physical address of a window offset (20_memory.md R70). -/
def hostAddress (off : Offset) : Nat := Config.pBase + off.toNat

/-- The window offset at a host physical address; none outside the block's window (20_memory.md R70). -/
def offsetOfAddress (addr : Nat) : Option Offset :=
  if Config.pBase ≤ addr ∧ addr < Config.pBase + 8192 then some (BitVec.ofNat 13 (addr - Config.pBase)) else none

/-! ## Reads -/

/-- ID's constant (10_state.md R31). -/
def idWord : Word := 0x58594D31

/-- A register's 32-bit value, reserved bits 0 (10_state.md R30, R50, 20_memory.md R76). CMD reads 0 (10_state.md R36). -/
def State.regWord (s : State) : Reg → Word
  | .id => idWord
  | .cfg => s.cfgWord
  | .cmd => 0
  | .status => s.statusWord
  | .crc => s.crc.setWidth 32
  | .csum => s.csum.setWidth 32
  | .expect => s.expect.setWidth 32
  | .hdr => s.hdr.setWidth 32
  | .seq => s.seq.setWidth 32
  | .plen => s.plen.setWidth 32
  | .flen => s.flen.setWidth 32
  | .ocnt => s.ocnt.setWidth 32
  | .nstate => s.nstateWord

/-- The registers whose reads are exact while BUSY = 1 (20_memory.md R77). -/
def Reg.exactWhileBusy : Reg → Bool
  | .id => true
  | .cfg => true
  | .status => true
  | _ => false

/-- The access is answered with `r`. -/
def State.respond (s : State) (r : Response) : State := { s with response := some r }

/-- A read of a register: its value, or while BUSY = 1 a free value for all but ID, CFG and STATUS (20_memory.md R76, R77;
log entry 5). -/
def State.readReg (s : State) (r : Reg) : State :=
  if s.busy && !r.exactWhileBusy then { s with fresh := s.fresh + 1 }.respond (.word (Config.busyReadWord s.fresh))
  else s.respond (.word (s.regWord r))

/-- A read of the buffer byte at offset `a`: its value, or a free value while BUSY = 1 (20_memory.md R76, R77, R78). -/
def State.readByte (s : State) (a : Nat) : State :=
  if s.busy then { s with fresh := s.fresh + 1 }.respond (.byte (Config.busyReadByte s.fresh))
  else s.respond (.byte (s.byteAt a))

/-- `MemRead(off, n)` (00_scope.md R9, 20_memory.md R74, R76, R77). -/
def State.hostRead (s : State) (off : Offset) (w : Width) : State :=
  match targetOf off w with
  | none => s.respond .busError
  | some (.reg r) => s.readReg r
  | some .pbuf => s.readByte off.toNat
  | some .fbuf => s.readByte off.toNat
  | some .obuf => s.readByte off.toNat

/-! ## Writes -/

/-- A write to CFG with BUSY = 0 (10_state.md R32, R33). -/
def State.writeCfg (s : State) (v : Word) : State :=
  { s with
    variant := s.variant.ofWrite (v.extractLsb' 0 2)
    mode := Mode.ofBit (v.getLsbD 2)
    conv := Conv.ofBit (v.getLsbD 3) }

/-- A write to STATUS, whatever BUSY is: 1 clears ERRS by bit 8 and OVR by bit 9 (10_state.md R35). -/
def State.writeStatus (s : State) (v : Word) : State :=
  { s with errs := s.errs && !v.getLsbD 8, ovr := s.ovr && !v.getLsbD 9 }

/-- A write to CMD with BUSY = 0 issues the word as a command (10_state.md R36, R46); how many accesses may come before it
completes is a free value (70_reset_and_hazards.md R280; log entry 2). -/
def State.issue (s : State) (v : Word) : State :=
  { s with cmdLatch := v, busy := true, lat := Config.extraSteps s.fresh, fresh := s.fresh + 1 }

/-- A write to a register with BUSY = 0 (20_memory.md R76); the read-only registers ignore it (10_state.md R50). -/
def State.writeReg (s : State) (v : Word) : Reg → State
  | .id => s
  | .cfg => s.writeCfg v
  | .cmd => s.issue v
  | .status => s.writeStatus v
  | .crc => s
  | .csum => s
  | .expect => { s with expect := v.setWidth 8 }
  | .hdr => s
  | .seq => s
  | .plen => { s with plen := v.setWidth 11 }
  | .flen => { s with flen := v.setWidth 11 }
  | .ocnt => s
  | .nstate => s

/-- A write of a legal access with BUSY = 0 (20_memory.md R75, R76); OBUF is read-only. -/
def State.writeTarget (s : State) (off : Offset) (v : Word) : Target → State
  | .reg r => s.writeReg v r
  | .pbuf => { s with mem := s.mem.write off.toNat [v.setWidth 8] }
  | .fbuf => { s with mem := s.mem.write off.toNat [v.setWidth 8] }
  | .obuf => s

/-- A write dropped while BUSY = 1 sets OVR (20_memory.md R77). -/
def State.dropWrite (s : State) : State := { s with ovr := true }

/-- `MemWrite(off, n, v)` (00_scope.md R9, 20_memory.md R74 to R77). -/
def State.hostWrite (s : State) (off : Offset) (w : Width) (v : Word) : State :=
  match targetOf off w with
  | none => s.respond .busError
  | some t =>
    if s.busy && t != .reg .status then s.dropWrite.respond .okay
    else (s.writeTarget off v t).respond .okay

/-! ## One input -/

/-- One host access (20_memory.md R81). -/
def State.hostAccess (s : State) (a : Access) : State :=
  match a with
  | .read off w => s.hostRead off w
  | .write8 off v => s.hostWrite off .w8 (v.setWidth 32)
  | .write16 off v => s.hostWrite off .w16 (v.setWidth 32)
  | .write32 off v => s.hostWrite off .w32 v
  | .writeOther off => s.hostWrite off .other 0

/-- The width of an access of `n` bytes. -/
def Width.ofBytes (n : Nat) : Width := if n = 1 then .w8 else if n = 2 then .w16 else if n = 4 then .w32 else .other

/-- The access `MemRead(off, n)`, for any number of bytes n (00_scope.md R9). -/
def memRead (off : Offset) (n : Nat) : Access := .read off (Width.ofBytes n)

/-- The access `MemWrite(off, n, v)`, for any number of bytes n (00_scope.md R9). -/
def memWrite (off : Offset) (n v : Nat) : Access :=
  match Width.ofBytes n with
  | .w8 => .write8 off (BitVec.ofNat 8 v)
  | .w16 => .write16 off (BitVec.ofNat 16 v)
  | .w32 => .write32 off (BitVec.ofNat 32 v)
  | .other => .writeOther off

/-- The reset step (70_reset_and_hazards.md R270, R271): the state after reset, a command in flight cancelled, every buffer
byte unspecified anew. What the outside world still has pending stays. -/
def State.resetStep (s : State) (rest : List Input) : State :=
  { State.reset with inputs := rest, fresh := s.fresh + 1, bufSeed := s.fresh }

/-- The window offset of STATUS (10_state.md R30). -/
def statusOffset : Offset := 0x00C

/-- The window offset of CMD (10_state.md R30). -/
def cmdOffset : Offset := 0x008

/-- One access of the latency of a command in flight has passed. -/
def State.passAccess (s : State) (rest : List Input) : State := { s with lat := s.lat - 1, inputs := rest }

/-- The step that takes the oldest pending input `i`, with `rest` behind it. A POLL is one read of STATUS, and it stays
pending while the read shows BUSY = 1 (30_encoding.md R111). -/
def State.takeInput (s : State) (i : Input) (rest : List Input) : State :=
  match i with
  | .access a => (s.passAccess rest).hostAccess a
  | .poll => (s.passAccess (if s.busy then .poll :: rest else rest)).hostRead statusOffset .w32
  | .reset => s.resetStep rest

end Sys2Proof.Machine
end

