-- ==== Sys2Proof/Machine/Step.lean ====
section
/-! DEFINITION. One step of the block's total order (20_memory.md R85): the completion of the command in flight when it is
due (10_state.md R46), else the oldest pending input, else nothing. -/

namespace Sys2Proof.Machine

/-- The completion step: decode CMDLATCH and run the command (10_state.md R46, 30_encoding.md R112). -/
def complete (s : State) : Host.Outcome State Fault Refusal :=
  match decode s.cmdLatch with
  | .command i => exec i s
  | .illegal _ => s.completeIllegal

/-- One step. With no command in flight and nothing pending the block stays as it is (60_exceptions.md R255). -/
def step (s : State) : Host.Outcome State Fault Refusal :=
  if s.completionDue then complete s
  else
    match s.inputs with
    | [] => .next s
    | i :: rest => .next (s.takeInput i rest)

/-- The state in which the very next step runs the command word `w`: it has been issued and its latency has run out. The
block fetches nothing (10_state.md R48), so this stands for the host's CMD write (log entry 11). -/
def State.withFetchWord (s : State) (_nbits w : Nat) : State :=
  { s with cmdLatch := BitVec.ofNat 32 w, busy := true, lat := 0 }

end Sys2Proof.Machine
end

