-- ==== Sys2Proof/Machine/HostProgram.lean ====
section
/-! DEFINITION. The host programs' notation of 30_encoding.md R111 as lists of inputs: a command and its POLL, the
pseudo-commands, and the start-up sequences of 70_reset_and_hazards.md R272 and R273. -/

namespace Sys2Proof.Machine

/-- A bare command: the CMD write and its POLL (30_encoding.md R111). -/
def command (i : Instr) : List Input := [.access (.write32 cmdOffset (encode i)), .poll]

/-- `CRC16_PAYLOAD` (30_encoding.md R111). -/
def crc16PayloadInputs : List Input := command .crcInit ++ command .crcPbuf

/-- `CHECKSUM_PAYLOAD` (30_encoding.md R111). -/
def checksumPayloadInputs : List Input := command .csumInit ++ command .csumPbuf

/-- `CRC_STR` (30_encoding.md R111). -/
def crcStrInputs (str : List Byte) : List Input := str.flatMap fun c => command (.crcByte c)

/-- `ACCEPT` (30_encoding.md R111, 43_sequence.md R183). -/
def acceptInputs : List Input := command .deliver ++ command .seqAdvance

/-- `END_OF_TRANSFER` (30_encoding.md R111, 70_reset_and_hazards.md R277). -/
def endOfTransferInputs : List Input := command .normFlush

/-- Bring-up: read ID, clear ERRS and OVR (70_reset_and_hazards.md R272 steps 2 and 3). -/
def bringUpInputs : List Input := [.access (.read 0x000 .w32), .access (.write32 statusOffset 0x00000300)]

/-- Session start: write CFG, then SESS_INIT e and its POLL (70_reset_and_hazards.md R273). -/
def sessionStartInputs (cfg : Word) (e : Byte) : List Input := .access (.write32 0x004 cfg) :: command (.sessInit e)

end Sys2Proof.Machine
end

