-- ==== Sys2Proof/Safety.lean ====
section
/-! DEFINITION. What counts as a sound state and a safe step of the block, in the terms the statements use. -/

namespace Sys2Proof.Machine

/-- The invariant of the block: memory is in canonical form and holds buffer bytes only (20_memory.md R71), OCNT is at most
OBUF_SIZE (10_state.md R44), and the draw of this reset's unspecified bytes is an earlier one than the next draw. -/
structure State.Inv (s : State) : Prop where
  memWf : s.mem.wf
  memInBuffers : ∀ c ∈ s.mem, inBuffer c.1 = true
  ocntLe : s.ocnt.toNat ≤ obufSize
  seedLt : s.bufSeed < s.fresh

/-- The window offset an access names. -/
def Access.offset : Access → Nat
  | .read off _ => off.toNat
  | .write8 off _ => off.toNat
  | .write16 off _ => off.toNat
  | .write32 off _ => off.toNat
  | .writeOther off => off.toNat

/-- The width of an access. -/
def Access.width : Access → Width
  | .read _ w => w
  | .write8 _ _ => .w8
  | .write16 _ _ => .w16
  | .write32 _ _ => .w32
  | .writeOther _ => .other

/-- The access is a write. -/
def Access.isWrite : Access → Bool
  | .read _ _ => false
  | .write8 _ _ => true
  | .write16 _ _ => true
  | .write32 _ _ => true
  | .writeOther _ => true

/-- An access of width `w` at offset `a` is legal by the numbers of 20_memory.md R71, R72 and R73: an aligned 32-bit access
to a register or an 8-bit access to a buffer byte. -/
def legalAt (a : Nat) : Width → Bool
  | .w8 => decide (0x400 ≤ a ∧ a ≤ 0x7FF) || decide (0x800 ≤ a ∧ a ≤ 0xC04) || decide (0x1000 ≤ a ∧ a ≤ 0x1801)
  | .w16 => false
  | .other => false
  | .w32 => decide (a ≤ 0x33 ∧ a % 4 = 0)

/-- The access is legal (20_memory.md R72, R73). -/
def Access.legal (a : Access) : Bool := legalAt a.offset a.width

/-- `t` agrees with `s` in every register a command can read or write, in the buffers and in CMDLATCH and BUSY: they may
differ in ERRS and OVR and in the model's own fields for the schedule, the responses and the draws. -/
def State.sameCommandState (s t : State) : Prop :=
  { t with
    errs := s.errs
    ovr := s.ovr
    lat := s.lat
    inputs := s.inputs
    response := s.response
    fresh := s.fresh } = s

/-- Every buffer byte outside the `n` bytes from offset `a` reads in `t` as in `s`. -/
def State.bytesKeptOutside (s t : State) (a n : Nat) : Prop := ∀ x, x < a ∨ a + n ≤ x → t.byteAt x = s.byteAt x

/-- Every buffer byte reads in `t` as in `s`. -/
def State.bytesKept (s t : State) : Prop := ∀ x, t.byteAt x = s.byteAt x

end Sys2Proof.Machine
end

