-- ==== Sys2Proof/Certificates/Slice0/Obligations.lean ====
section
/-! DEFINITION. The statements about the block for the provers, from the numbered rules of spec/. Numbers are the spec's own:
0x400, 0x800 and 0x1000 are the window offsets of PBUF[0], FBUF[0] and OBUF[0] (20_memory.md R71). A frame is written as a
record: with the named fields put back, the new state is the old one. -/

open Sys2Proof Sys2Proof.Machine

namespace Sys2Proof.Claims

/-- The word is the command's, and every other word of its opcode is illegal (30_encoding.md R103). -/
def PlainWord (w : Word) (i : Instr) : Prop :=
  decode w = .command i ∧ ∀ v, fieldOpc v = fieldOpc w → v ≠ w → ∃ r, decode v = .illegal r

/-- The words `w | (b << 8)` are the command's with the byte operand b, and every other word of the opcode is illegal
(30_encoding.md R103). -/
def ByteWord (w : Word) (f : Byte → Instr) : Prop :=
  (∀ b : Byte, decode (w ||| (b.setWidth 32 <<< 8)) = .command (f b)) ∧
  ∀ v, fieldOpc v = fieldOpc w → (∀ b : Byte, v ≠ w ||| (b.setWidth 32 <<< 8)) → ∃ r, decode v = .illegal r

/-- The command reports the error `c` and changes nothing else (00_scope.md R10). -/
def FailsWith (i : Instr) (s : State) (c : ResultCode) : Prop :=
  exec i s = .next { s with result := c, errs := true, busy := false }

/-- The next step is not forced to be a completion: no command is in flight, or accesses may still come before it
completes. -/
def InputsMayCome (s : State) : Prop := s.busy = false ∨ s.lat ≠ 0

/-- A 32-bit read at `off` answers `v` and changes nothing but the response. -/
def ReadsWord (s : State) (off : Offset) (v : Word) : Prop :=
  s.hostAccess (.read off .w32) = { s with response := some (.word v) }

/-- CFG[1:0] of each variant (10_state.md R32). -/
def variantCodes : List (BitVec 2 × Variant) := [(0, .checksum), (1, .crc16), (2, .crc16K)]

/-- STATUS[3:0] of each result (60_exceptions.md R240). -/
def resultCodes : List (BitVec 4 × ResultCode) :=
  [(0, .ok), (1, .length), (2, .header), (3, .complement), (4, .integrity), (5, .sequence), (6, .illegal), (7, .operand),
    (8, .overflow)]

/-- STATUS[6:5] of each class (10_state.md R34). -/
def seqClsCodes : List (BitVec 2 × SeqCls) := [(0, .none), (1, .new), (2, .dup), (3, .ooo)]

/-- Every register reads the reset value of 10_state.md R30, CMDLATCH is 0 and no command is in flight. -/
def AtResetValues (t : State) : Prop :=
  t.cmdLatch = 0x00000000 ∧ t.busy = false ∧ ReadsWord t 0x000 0x58594D31 ∧ ReadsWord t 0x004 0x00000001 ∧
    ReadsWord t 0x008 0 ∧ ReadsWord t 0x00C 0 ∧ ReadsWord t 0x010 0 ∧ ReadsWord t 0x014 0 ∧
    ReadsWord t 0x018 0x00000001 ∧ ReadsWord t 0x01C 0 ∧ ReadsWord t 0x020 0 ∧ ReadsWord t 0x024 0 ∧
    ReadsWord t 0x028 0 ∧ ReadsWord t 0x02C 0 ∧ ReadsWord t 0x030 0

/-- P, the payload size of a data header (42_block_codec.md R150). -/
def sizeFor (h : Byte) : Nat := if h = 0x01 then 128 else 1024

/-- T, the trailer size of a variant (42_block_codec.md R150). -/
def trailerOf (v : Variant) : Nat := if v = .checksum then 1 else 2

/-- The byte starts a data frame that the variant allows (42_block_codec.md R150). -/
def DataHeader (v : Variant) (h : Byte) : Prop := h = 0x01 ∨ (h = 0x02 ∧ v = .crc16K)

/-- The bytes of CTRL (42_block_codec.md R154). -/
def ControlByte (c : Byte) : Prop := c = 0x04 ∨ c = 0x06 ∨ c = 0x15 ∨ c = 0x18 ∨ c = 0x43

/-- The byte is of class OTHER (00_scope.md R11). -/
def OtherByte (b : Byte) : Prop := b ≠ 0x0D ∧ b ≠ 0x0A ∧ b ≠ 0x1A

/-- OBUF[0..OCNT). -/
def obufContents (s : State) : List Byte := s.bytesAt 0x1000 s.ocnt.toNat

/-- The commands that write the CRC accumulator (10_state.md R37). -/
def writesCrc : Instr → Bool
  | .crcInit | .crcByte _ | .crcPbuf | .sessInit _ => true
  | _ => false

/-- The commands that write the checksum accumulator (10_state.md R38). -/
def writesCsum : Instr → Bool
  | .csumInit | .csumByte _ | .csumPbuf | .sessInit _ => true
  | _ => false

/-- The commands that write EXPECT (10_state.md R39). -/
def writesExpect : Instr → Bool
  | .seqAdvance | .sessInit _ => true
  | _ => false

/-- The commands that write HDR, SEQ or Z0 (10_state.md R40, R41, R53). -/
def writesDecoded : Instr → Bool
  | .frmDecode | .sessInit _ => true
  | _ => false

/-- The commands that write FLEN (10_state.md R43). -/
def writesFlen : Instr → Bool
  | .frmEncode _ _ _ | .frmCtrl _ => true
  | _ => false

/-- The commands that write OCNT (10_state.md R44). -/
def writesOcnt : Instr → Bool
  | .deliver | .normByte _ | .normFlush | .obufClear | .sessInit _ => true
  | _ => false

/-- The commands that write the normalizer's carry (44_normalizer.md R199 to R202, 45_system.md R231). -/
def writesCarry : Instr → Bool
  | .deliver | .normByte _ | .normFlush | .normReset | .sessInit _ => true
  | _ => false

/-- The commands that write SEQCLS (10_state.md R53). -/
def writesSeqCls : Instr → Bool
  | .seqCheck | .sessInit _ => true
  | _ => false

/-- The commands that write OBUF bytes (10_state.md R47). -/
def writesObuf : Instr → Bool
  | .deliver | .normByte _ | .normFlush => true
  | _ => false

/-- The nonzero result codes of each command (60_exceptions.md R240). -/
def errorsOf : Instr → List ResultCode
  | .frmDecode => [.length, .header, .complement, .integrity]
  | .seqCheck => [.sequence]
  | .crcPbuf | .csumPbuf | .deliver | .frmEncode _ _ _ | .frmCtrl _ => [.operand]
  | .normByte _ | .normFlush => [.overflow]
  | _ => []

end Sys2Proof.Claims

open Sys2Proof.Claims

/-! ## Encoding -/

/-- Every command's word decodes to it (30_encoding.md R100 to R102, R112). -/
def Obligations.DecodeOfEncode : Prop := ∀ i, decode (encode i) = .command i

/-- Every legal word is the word of the command it decodes to (30_encoding.md R100 to R102, R112). -/
def Obligations.EncodeOfDecode : Prop := ∀ w i, decode w = .command i → encode i = w

/-- A word is legal by its fields exactly when it matches a row of the opcode table, and exactly when it decodes
(30_encoding.md R103). -/
def Obligations.LegalWordMatchesTable : Prop :=
  ∀ w,
    (legalWord w = true ↔
      ∃ r, opMap (fieldOpc w) = some r ∧ fieldRsv w = 0 ∧ (r.usesA = false → fieldA w = 0) ∧
        (r.usesB = false → fieldB w = 0) ∧ (r.usesP = false → fieldP w = false)) ∧
    (legalWord w = true ↔ ∃ i, decode w = .command i)

/-- An illegal word completes with ERR_ILLEGAL and nothing else, and the illegal words are those of the 238 unlisted opcodes
and those with a nonzero field that must be zero (30_encoding.md R104). -/
def Obligations.IllegalWordReportsErrIllegal : Prop :=
  (∀ (s : State), legalWord s.cmdLatch = false →
    complete s = .next { s with result := .illegal, errs := true, busy := false }) ∧
  (∀ w, (∃ i, decode w = .command i) ∨ legalWord w = false) ∧
  ((List.range 256).filter fun n => (opMap (BitVec.ofNat 8 n)).isNone).length = 238 ∧
  (∀ w, opMap (fieldOpc w) = none → legalWord w = false) ∧
  (∀ w r, opMap (fieldOpc w) = some r →
    (fieldRsv w ≠ 0 ∨ (r.usesA = false ∧ fieldA w ≠ 0) ∨ (r.usesB = false ∧ fieldB w ≠ 0) ∨
      (r.usesP = false ∧ fieldP w = true)) → legalWord w = false)

/-- Words written out from 30_encoding.md R102 and R110 and 95_test_vectors.md V-Y decode to what they stand for. -/
def Obligations.WrittenOutWordsDecode : Prop :=
  decode 0x00000000 = .command .nop ∧ decode 0x00000101 = .command (.sessInit 0x01) ∧
  decode 0x00003111 = .command (.crcByte 0x31) ∧ decode 0x00002019 = .command (.csumByte 0x20) ∧
  decode 0x00010120 = .command (.frmEncode 0x01 0x01 .sub) ∧ decode 0x01FFFF20 = .command (.frmEncode 0xFF 0xFF .nul) ∧
  decode 0x00000421 = .command (.frmCtrl 0x04) ∧ decode 0x00000028 = .command .seqCheck ∧
  decode 0x00000A31 = .command (.normByte 0x0A) ∧ decode 0x00000033 = .command .deliver ∧
  decode 0x00000100 = .illegal .operandA ∧ decode 0x00013111 = .illegal .operandB ∧
  decode 0x01000019 = .illegal .operandP ∧ decode 0x02000020 = .illegal .reservedBits ∧
  decode 0x00000035 = .illegal .unknownOpcode

/-! ## Steps -/

/-- When the completion of the command in flight is the next step, that step decodes CMDLATCH and is the meaning of the
command it decodes to (10_state.md R46, 30_encoding.md R112). That it is the next step when the latency has run out or
nothing is pending is log entry 2. -/
def Obligations.StepRunsDecodedCommand : Prop :=
  ∀ (s : State), s.busy = true → (s.lat = 0 ∨ s.inputs = []) →
    step s = complete s ∧ (∀ i, decode s.cmdLatch = .command i → step s = exec i s) ∧
    (∀ r, decode s.cmdLatch = .illegal r → step s = s.completeIllegal)

/-- Where no completion is due, the step takes the oldest pending access or poll (20_memory.md R85, 30_encoding.md R111); a
poll stays pending while BUSY = 1. That inputs are a list in State is log entry 3; when a completion is not due, and that an
access or poll takes one off `lat`, are log entry 2, the model's choices. A pending reset is ResetGivesResetValues and
ResetDrawsBuffersAnew. -/
def Obligations.PendingInputsTakenInOrder : Prop :=
  (∀ (s : State) (a : Access) (rest : List Input), s.inputs = .access a :: rest → InputsMayCome s →
    step s = .next ({ s with lat := s.lat - 1, inputs := rest }.hostAccess a)) ∧
  (∀ (s : State) (rest : List Input), s.inputs = .poll :: rest → InputsMayCome s →
    step s = .next
      { s with
        lat := s.lat - 1
        inputs := if s.busy then .poll :: rest else rest
        response := some (.word s.statusWord) }) ∧
  (∀ (s : State), s.inputs = [] → s.busy = false → step s = .next s)

/-- No step stops: the block has no traps (60_exceptions.md section 4), and every access and every word has its outcome. -/
def Obligations.NoStepStops : Prop := ∀ (s : State), ∃ t, step s = .next t

/-- A command in flight is over, completed or cancelled by a pending reset, after at most P_LAT steps
(70_reset_and_hazards.md section 3; P_LAT = lat + 1 is log entry 2). That it completes where no reset is pending is
ResultIndependentOfLatency. -/
def Obligations.BusyFallsWithinLatency : Prop :=
  ∀ (s : State), s.busy = true →
    ∃ k t, 1 ≤ k ∧ k ≤ s.lat + 1 ∧ Host.Core.run core k s = .next t ∧ t.busy = false

/-- Without a reset, whatever the host does while a command is in flight and whenever the command completes, it leaves the
command state that completing at once leaves (70_reset_and_hazards.md section 3, 20_memory.md section 6). The bound
`k ≤ s.lat` is log entry 2, the model's choice. -/
def Obligations.ResultIndependentOfLatency : Prop :=
  ∀ (s : State), s.busy = true → (∀ i ∈ s.inputs, i ≠ .reset) →
    ∃ t k u, complete s = .next t ∧ k ≤ s.lat ∧ Host.Core.run core (k + 1) s = .next u ∧ u.busy = false ∧
      t.sameCommandState u ∧ (t.result ≠ .ok → u.errs = true)

/-- A bare command of a host program, its CMD write and its POLL, runs the command and is over: the command's effect is there
when the poll reads BUSY = 0 (30_encoding.md section 3, 20_memory.md section 6). That the host's program is a list of inputs
and a poll one input is log entry 3, the model's choice. -/
def Obligations.BareCommandRunsToCompletion : Prop :=
  ∀ (s : State) (i : Instr) (rest : List Input), s.busy = false → s.inputs = command i ++ rest →
    ∃ t k u, exec i { s with cmdLatch := encode i, busy := true } = .next t ∧ Host.Core.run core k s = .next u ∧
      u.inputs = rest ∧ u.busy = false ∧ t.sameCommandState u ∧ u.errs = t.errs ∧ u.ovr = t.ovr ∧
      u.response = some (.word u.statusWord)

/-- The race of a write with a completion (95_test_vectors.md P6): both end states and no third. -/
def Obligations.BusyWriteRace : Prop :=
  ∀ (s : State) (v : Word), s.busy = true → s.cmdLatch = 0x00000000 → s.inputs = [.access (.write32 0x024 v)] →
    ∃ t, Host.Core.run core 2 s = .next t ∧ t.busy = false ∧ t.result = .ok ∧
      (s.lat = 0 → t.plen = v.setWidth 11 ∧ t.ovr = s.ovr) ∧ (s.lat ≠ 0 → t.plen = s.plen ∧ t.ovr = true)

/-! ## Host accesses -/

/-- A refused access is answered with a bus error and changes nothing, and only illegal accesses are refused; an access of
any number of bytes but 1 and 4 is refused at every offset (20_memory.md R72, R73, R74). -/
def Obligations.RefusedAccessChangesNothing : Prop :=
  (∀ (s : State) (a : Access), (a.legal = false → s.hostAccess a = { s with response := some .busError }) ∧
    (a.legal = true → (s.hostAccess a).response ≠ some .busError)) ∧
  (∀ (s : State) (off : Offset) (n v : Nat), n ≠ 1 → n ≠ 4 →
    s.hostAccess (memRead off n) = { s with response := some .busError } ∧
      s.hostAccess (memWrite off n v) = { s with response := some .busError })

/-- Accesses while BUSY = 1 (20_memory.md R77); the free values are those of log entry 5, and that a dropped write is
answered OKAY is log entry 4 (DEDUCED, the model's). -/
def Obligations.BusyAccesses : Prop :=
  ∀ (s : State), s.busy = true →
    (ReadsWord s 0x000 0x58594D31 ∧ ReadsWord s 0x004 s.cfgWord ∧ ReadsWord s 0x00C s.statusWord ∧
      s.statusWord.getLsbD 4 = true) ∧
    (∀ off, (Access.read off .w32).legal = true → off ≠ 0x000 → off ≠ 0x004 → off ≠ 0x00C →
      s.hostAccess (.read off .w32) =
        { s with response := some (.word (Config.busyReadWord s.fresh)), fresh := s.fresh + 1 }) ∧
    (∀ off, (Access.read off .w8).legal = true →
      s.hostAccess (.read off .w8) =
        { s with response := some (.byte (Config.busyReadByte s.fresh)), fresh := s.fresh + 1 }) ∧
    (∀ v, s.hostAccess (.write32 0x00C v) =
      { s with errs := s.errs && !v.getLsbD 8, ovr := s.ovr && !v.getLsbD 9, response := some .okay }) ∧
    (∀ a, a.legal = true → a.isWrite = true → a.offset ≠ 0x00C →
      s.hostAccess a = { s with ovr := true, response := some .okay })

/-- No read changes any state but the response and the count of draws, and two reads in a row with BUSY = 0 answer the same
(20_memory.md section 4). -/
def Obligations.ReadsHaveNoSideEffect : Prop :=
  ∀ (s : State) (off : Offset) (w : Width),
    { s.hostAccess (.read off w) with response := s.response, fresh := s.fresh } = s ∧
    (s.busy = false →
      ((s.hostAccess (.read off w)).hostAccess (.read off w)).response = (s.hostAccess (.read off w)).response)

/-- What a read of each register answers, ID, CFG and STATUS whatever BUSY is and the others with BUSY = 0: the fields at
their places, each value of CFG, RESULT and SEQCLS under its own code, the reserved bits 0 (10_state.md section 1,
60_exceptions.md section 1). -/
def Obligations.RegisterReadLayout : Prop :=
  ∀ (s : State),
    ReadsWord s 0x000 0x58594D31 ∧
    (∃ v, ReadsWord s 0x004 v ∧ (∀ p ∈ variantCodes, v.extractLsb' 0 2 = p.1 ↔ s.variant = p.2) ∧
      (v.getLsbD 2 = false ↔ s.mode = .binary) ∧ (v.getLsbD 2 = true ↔ s.mode = .text) ∧
      (v.getLsbD 3 = false ↔ s.conv = .crlf) ∧ (v.getLsbD 3 = true ↔ s.conv = .lf) ∧ v.extractLsb' 4 28 = 0) ∧
    (∃ v, ReadsWord s 0x00C v ∧ (∀ p ∈ resultCodes, v.extractLsb' 0 4 = p.1 ↔ s.result = p.2) ∧
      v.getLsbD 4 = s.busy ∧ (∀ p ∈ seqClsCodes, v.extractLsb' 5 2 = p.1 ↔ s.seqCls = p.2) ∧ v.getLsbD 7 = s.z0 ∧
      v.getLsbD 8 = s.errs ∧ v.getLsbD 9 = s.ovr ∧ v.extractLsb' 10 22 = 0) ∧
    (s.busy = false →
      ReadsWord s 0x008 0 ∧ ReadsWord s 0x010 (s.crc.setWidth 32) ∧ ReadsWord s 0x014 (s.csum.setWidth 32) ∧
      ReadsWord s 0x018 (s.expect.setWidth 32) ∧ ReadsWord s 0x01C (s.hdr.setWidth 32) ∧
      ReadsWord s 0x020 (s.seq.setWidth 32) ∧ ReadsWord s 0x024 (s.plen.setWidth 32) ∧
      ReadsWord s 0x028 (s.flen.setWidth 32) ∧ ReadsWord s 0x02C (s.ocnt.setWidth 32) ∧
      (∃ v, ReadsWord s 0x030 v ∧ v.extractLsb' 0 8 = s.carry.getD 0x00 ∧ v.getLsbD 8 = s.carry.isSome ∧
        v.extractLsb' 9 23 = 0))

/-- A CFG write with BUSY = 0: bits [1:0] = 3 leave VARIANT, the other values set it, MODE and CONV take their bits
(10_state.md R33). -/
def Obligations.CfgWriteKeepsLegalVariant : Prop :=
  ∀ (s : State) (v : Word), s.busy = false →
    ∃ t, s.hostAccess (.write32 0x004 v) = t ∧
      (v.extractLsb' 0 2 = 3 → t.variant = s.variant) ∧
      (∀ p ∈ variantCodes, v.extractLsb' 0 2 = p.1 → t.variant = p.2) ∧
      t.mode = (if v.getLsbD 2 then .text else .binary) ∧ t.conv = (if v.getLsbD 3 then .lf else .crlf) ∧
      t.response = some .okay ∧
      { t with variant := s.variant, mode := s.mode, conv := s.conv, response := s.response } = s

/-- A STATUS write clears ERRS by bit 8 and OVR by bit 9, whatever BUSY is, changes no other STATUS bit, and a later failing
completion sets ERRS again (10_state.md R35). -/
def Obligations.StatusWriteClearsStickyBits : Prop :=
  ∀ (s : State) (v : Word),
    ∃ t, s.hostAccess (.write32 0x00C v) = t ∧
      (v.getLsbD 8 = true → t.errs = false) ∧ (v.getLsbD 8 = false → t.errs = s.errs) ∧
      (v.getLsbD 9 = true → t.ovr = false) ∧ (v.getLsbD 9 = false → t.ovr = s.ovr) ∧ t.response = some .okay ∧
      { t with errs := s.errs, ovr := s.ovr, response := s.response } = s ∧
      (∀ i u, exec i t = .next u → u.result ≠ .ok → u.errs = true)

/-- A CMD write with BUSY = 0 issues the word; with BUSY = 1 it is dropped and sets OVR; CMD reads 0 with BUSY = 0
(10_state.md section 1). The latency drawn is log entry 2, and that a dropped write is answered OKAY is log entry 4 (DEDUCED). -/
def Obligations.CmdWriteIssuesCommand : Prop :=
  ∀ (s : State) (v : Word),
    (s.busy = false →
      ∃ t, s.hostAccess (.write32 0x008 v) = t ∧ t.cmdLatch = v ∧ t.busy = true ∧ t.response = some .okay ∧
        t.lat = Config.extraSteps s.fresh ∧ t.fresh = s.fresh + 1 ∧ ReadsWord s 0x008 0 ∧
        { t with
          cmdLatch := s.cmdLatch
          busy := s.busy
          response := s.response
          lat := s.lat
          fresh := s.fresh } = s) ∧
    (s.busy = true → s.hostAccess (.write32 0x008 v) = { s with ovr := true, response := some .okay })

/-- Register writes with BUSY = 0: EXPECT, PLEN and FLEN take their low bits, writes to read-only registers and to OBUF are
answered OKAY and ignored (10_state.md section 1, 20_memory.md section 2). -/
def Obligations.RegisterWrites : Prop :=
  ∀ (s : State) (v : Word), s.busy = false →
    s.hostAccess (.write32 0x018 v) = { s with expect := v.extractLsb' 0 8, response := some .okay } ∧
    s.hostAccess (.write32 0x024 v) = { s with plen := v.extractLsb' 0 11, response := some .okay } ∧
    s.hostAccess (.write32 0x028 v) = { s with flen := v.extractLsb' 0 11, response := some .okay } ∧
    (∀ off : Offset, off ∈ [0x000#13, 0x010#13, 0x014#13, 0x01C#13, 0x020#13, 0x02C#13, 0x030#13] →
      s.hostAccess (.write32 off v) = { s with response := some .okay }) ∧
    (∀ (off : Offset) (b : Byte), 0x1000 ≤ off.toNat → off.toNat ≤ 0x1801 →
      s.hostAccess (.write8 off b) = { s with response := some .okay })

/-- A PBUF or FBUF write with BUSY = 0 sets its byte and no other; a read of a buffer byte answers what was last written, or
the unspecified value of this reset where nothing was (20_memory.md section 2; log entry 1). -/
def Obligations.BufferWriteThenRead : Prop :=
  ∀ (s : State) (off : Offset) (b : Byte), s.busy = false →
    ((0x400 ≤ off.toNat ∧ off.toNat ≤ 0x7FF) ∨ (0x800 ≤ off.toNat ∧ off.toNat ≤ 0xC04)) →
    ∃ t, s.hostAccess (.write8 off b) = t ∧ t.response = some .okay ∧
      (t.hostAccess (.read off .w8)).response = some (.byte b) ∧ s.bytesKeptOutside t off.toNat 1 ∧
      { t with mem := s.mem, response := s.response } = s ∧
      (∀ x : Offset, (Access.read x .w8).legal = true → s.mem.lookup x.toNat = none →
        (s.hostAccess (.read x .w8)).response = some (.byte (Config.unwrittenByte s.bufSeed x.toNat)))

/-! ## Reset and invariant -/

/-- After a reset, at power-on or as a step that cancels a command in flight, every register reads the reset value of
10_state.md R30, CMDLATCH is 0 and no command is in flight (10_state.md R51). -/
def Obligations.ResetGivesResetValues : Prop :=
  AtResetValues State.reset ∧
  ∀ (s : State) (rest : List Input), s.inputs = .reset :: rest → InputsMayCome s →
    ∃ t, step s = .next t ∧ AtResetValues t

/-- A reset draws every buffer byte anew and leaves what the outside world still has pending (log entries 1 and 9, the
model's choices). -/
def Obligations.ResetDrawsBuffersAnew : Prop :=
  ∀ (s : State) (rest : List Input), s.inputs = .reset :: rest → InputsMayCome s →
    ∃ t, step s = .next t ∧ t.inputs = rest ∧ t.response = none ∧ t.bufSeed = s.fresh ∧ s.fresh < t.fresh ∧
      ∀ a, t.byteAt a = Config.unwrittenByte s.fresh a

/-- The invariant holds in the reset state. -/
def Obligations.InvariantAtReset : Prop := State.reset.Inv

/-- Every step keeps the invariant: memory stays in canonical form and inside the buffers of 20_memory.md R71, OCNT stays
within OBUF_SIZE (10_state.md R44), and the draw of the unspecified bytes stays an earlier one. -/
def Obligations.StepKeepsInvariant : Prop := ∀ (s : State) (t : State), s.Inv → step s = .next t → t.Inv

/-- Equal contents are equal data: two memories in canonical form that hold the same byte at every offset are the same list.
The form is the model's (log entry 1). -/
def Obligations.CanonicalMemoryUnique : Prop :=
  ∀ m n : Memory, m.wf → n.wf → (∀ a, m.lookup a = n.lookup a) → m = n

/-! ## System commands -/

/-- NOP writes RESULT and BUSY only (45_system.md R230). -/
def Obligations.NopOnlyFinishes : Prop :=
  PlainWord 0x00000000 .nop ∧
  ∀ (s : State), ∃ t, exec .nop s = .next t ∧ t.result = .ok ∧ t.busy = false ∧
    { t with result := s.result, busy := s.busy } = s ∧ s.bytesKept t

/-- SESS_INIT e puts the block into the start state of a session (45_system.md R231). -/
def Obligations.SessInitStartsSession : Prop :=
  ByteWord 0x00000001 .sessInit ∧
  ∀ (s : State) (e : Byte), ∃ t, exec (.sessInit e) s = .next t ∧ t.expect = e ∧ t.carry = none ∧ t.crc = 0x0000 ∧
    t.csum = 0x00 ∧ t.ocnt = 0 ∧ t.hdr = 0x00 ∧ t.seq = 0x00 ∧ t.seqCls = .none ∧ t.z0 = false ∧ t.result = .ok ∧ t.busy = false ∧
    { t with
      expect := s.expect
      carry := s.carry
      crc := s.crc
      csum := s.csum
      ocnt := s.ocnt
      hdr := s.hdr
      seq := s.seq
      seqCls := s.seqCls
      z0 := s.z0
      result := s.result
      busy := s.busy } = s ∧ s.bytesKept t

/-! ## CRC and checksum -/

/-- `crc_step` is the loop of 41_checksum_crc.md R130, and it gives the standard check value. -/
def Obligations.CrcStepFollowsPseudocode : Prop :=
  (∀ (c : Half) (b : Byte), crcStep c b =
    (fun x : Half => if x.getLsbD 15 then (x <<< 1) ^^^ 0x1021 else x <<< 1)^[8] (c ^^^ (b.setWidth 16 <<< 8))) ∧
  crc16 [0x31, 0x32, 0x33, 0x34, 0x35, 0x36, 0x37, 0x38, 0x39] = 0x31C3

/-- `crc16` is `crc_step` folded in index order from 0x0000, zero on zero bytes, and linear over GF(2) (41_checksum_crc.md
R131). -/
def Obligations.Crc16FoldZeroAndLinear : Prop :=
  crc16 [] = 0x0000 ∧ (∀ xs b, crc16 (xs ++ [b]) = crcStep (crc16 xs) b) ∧
  (∀ n, crc16 (List.replicate n 0x00) = 0x0000) ∧
  (∀ xs ys, xs.length = ys.length → crc16 (List.zipWith (· ^^^ ·) xs ys) = crc16 xs ^^^ crc16 ys)

/-- A sequence followed by its own CRC, high byte first, has CRC 0x0000 (41_checksum_crc.md section 4, residue law). -/
def Obligations.CrcResidue : Prop :=
  ∀ d, crc16 (d ++ [(crc16 d).extractLsb' 8 8, (crc16 d).extractLsb' 0 8]) = 0x0000

/-- `checksum` is the sum of the bytes modulo 256, whatever their order (41_checksum_crc.md R132). -/
def Obligations.ChecksumIsSumModulo256 : Prop :=
  (∀ d, (checksum d).toNat = (d.map BitVec.toNat).sum % 256) ∧ checksum [] = 0x00 ∧
  (∀ xs ys : List Byte, xs.Perm ys → checksum xs = checksum ys)

/-- CRC_INIT, CSUM_INIT, NORM_RESET and OBUF_CLEAR each clear one register and nothing else (41_checksum_crc.md R133, R136,
44_normalizer.md R199, R203). -/
def Obligations.ClearingCommands : Prop :=
  PlainWord 0x00000010 .crcInit ∧ PlainWord 0x00000018 .csumInit ∧ PlainWord 0x00000030 .normReset ∧
  PlainWord 0x00000034 .obufClear ∧
  ∀ (s : State),
    (∃ t, exec .crcInit s = .next t ∧ t.crc = 0x0000 ∧ t.result = .ok ∧ t.busy = false ∧
      { t with crc := s.crc, result := s.result, busy := s.busy } = s ∧ s.bytesKept t) ∧
    (∃ t, exec .csumInit s = .next t ∧ t.csum = 0x00 ∧ t.result = .ok ∧ t.busy = false ∧
      { t with csum := s.csum, result := s.result, busy := s.busy } = s ∧ s.bytesKept t) ∧
    (∃ t, exec .normReset s = .next t ∧ t.carry = none ∧ t.result = .ok ∧ t.busy = false ∧
      { t with carry := s.carry, result := s.result, busy := s.busy } = s ∧ s.bytesKept t) ∧
    (∃ t, exec .obufClear s = .next t ∧ t.ocnt = 0 ∧ t.result = .ok ∧ t.busy = false ∧
      { t with ocnt := s.ocnt, result := s.result, busy := s.busy } = s ∧ s.bytesKept t)

/-- CRC_BYTE and CSUM_BYTE feed one byte to their accumulator and change nothing else, and feeding bytes one at a time goes
on with the CRC where it stands (41_checksum_crc.md R134, R137). -/
def Obligations.ByteAccumulates : Prop :=
  ByteWord 0x00000011 .crcByte ∧ ByteWord 0x00000019 .csumByte ∧
  (∀ xs ys, crc16 (xs ++ ys) = ys.foldl crcStep (crc16 xs)) ∧
  ∀ (s : State) (b : Byte),
    (∃ t, exec (.crcByte b) s = .next t ∧ t.crc = crcStep s.crc b ∧ t.result = .ok ∧ t.busy = false ∧
      { t with crc := s.crc, result := s.result, busy := s.busy } = s ∧ s.bytesKept t) ∧
    (∃ t, exec (.csumByte b) s = .next t ∧ t.csum.toNat = (s.csum.toNat + b.toNat) % 256 ∧ t.result = .ok ∧
      t.busy = false ∧ { t with csum := s.csum, result := s.result, busy := s.busy } = s ∧ s.bytesKept t)

/-- CRC_PBUF and CSUM_PBUF feed PBUF[0..PLEN) to their accumulator, or report ERR_OPERAND when PLEN exceeds 1024
(41_checksum_crc.md R135, R138). -/
def Obligations.PbufAccumulates : Prop :=
  PlainWord 0x00000012 .crcPbuf ∧ PlainWord 0x0000001A .csumPbuf ∧
  ∀ (s : State),
    (s.plen.toNat ≤ 1024 →
      ∃ t, exec .crcPbuf s = .next t ∧
        t.crc = ((List.range s.plen.toNat).map fun i => s.byteAt (0x400 + i)).foldl crcStep s.crc ∧ t.result = .ok ∧
        t.busy = false ∧ { t with crc := s.crc, result := s.result, busy := s.busy } = s ∧ s.bytesKept t) ∧
    (s.plen.toNat ≤ 1024 →
      ∃ t, exec .csumPbuf s = .next t ∧
        t.csum.toNat =
          (s.csum.toNat + ((List.range s.plen.toNat).map fun i => (s.byteAt (0x400 + i)).toNat).sum) % 256 ∧
        t.result = .ok ∧ t.busy = false ∧ { t with csum := s.csum, result := s.result, busy := s.busy } = s ∧
        s.bytesKept t) ∧
    (1024 < s.plen.toNat → FailsWith .crcPbuf s .operand ∧ FailsWith .csumPbuf s .operand)

/-! ## Framer and deframer -/

/-- FRM_ENCODE builds the data frame of 30_encoding.md R107 in FBUF from PBUF and sets FLEN, or reports ERR_OPERAND and
changes nothing (42_block_codec.md R155). -/
def Obligations.FrmEncodeBuildsFrame : Prop :=
  (∀ h sq : Byte,
    decode (0x00000020#32 ||| (h.setWidth 32 <<< 8) ||| (sq.setWidth 32 <<< 16)) = .command (.frmEncode h sq .sub) ∧
    decode (0x01000020#32 ||| (h.setWidth 32 <<< 8) ||| (sq.setWidth 32 <<< 16)) = .command (.frmEncode h sq .nul)) ∧
  (∀ w, fieldOpc w = 0x20 → fieldRsv w ≠ 0 → ∃ r, decode w = .illegal r) ∧
  ∀ (s : State) (h : Byte) (sq : Byte) (pad : Pad),
    (DataHeader s.variant h → s.plen.toNat ≤ sizeFor h →
      ∃ t pay, exec (.frmEncode h sq pad) s = .next t ∧
        pay = ((List.range (sizeFor h)).map fun i =>
          if i < s.plen.toNat then s.byteAt (0x400 + i) else if pad = .nul then 0x00 else 0x1A) ∧
        t.flen.toNat = 3 + sizeFor h + trailerOf s.variant ∧ t.byteAt 0x800 = h ∧ t.byteAt 0x801 = sq ∧
        t.byteAt 0x802 = 0xFF - sq ∧ t.bytesAt 0x803 (sizeFor h) = pay ∧
        (s.variant = .checksum → t.byteAt (0x803 + sizeFor h) = checksum pay) ∧
        (s.variant ≠ .checksum → t.byteAt (0x803 + sizeFor h) = (crc16 pay).extractLsb' 8 8 ∧
          t.byteAt (0x804 + sizeFor h) = (crc16 pay).extractLsb' 0 8) ∧
        s.bytesKeptOutside t 0x800 t.flen.toNat ∧ t.result = .ok ∧ t.busy = false ∧
        { t with mem := s.mem, flen := s.flen, result := s.result, busy := s.busy } = s) ∧
    (¬DataHeader s.variant h ∨ sizeFor h < s.plen.toNat → FailsWith (.frmEncode h sq pad) s .operand)

/-- FRM_CTRL builds a one-byte control frame, or reports ERR_OPERAND for a byte that is not in CTRL (42_block_codec.md
R156). -/
def Obligations.FrmCtrlBuildsControlFrame : Prop :=
  ByteWord 0x00000021 .frmCtrl ∧
  ∀ (s : State) (c : Byte),
    (ControlByte c →
      ∃ t, exec (.frmCtrl c) s = .next t ∧ t.byteAt 0x800 = c ∧ t.flen = 1 ∧ s.bytesKeptOutside t 0x800 1 ∧
        t.result = .ok ∧ t.busy = false ∧
        { t with mem := s.mem, flen := s.flen, result := s.result, busy := s.busy } = s) ∧
    (¬ControlByte c → FailsWith (.frmCtrl c) s .operand)

/-- The one result FRM_DECODE reports, by the order of its checks (42_block_codec.md R158), and that a rejected frame changes
nothing else. -/
def Obligations.FrmDecodeCheckOrder : Prop :=
  ∀ (s : State),
    (s.flen.toNat = 0 → FailsWith .frmDecode s .length) ∧
    (s.flen.toNat ≠ 0 → ¬ControlByte (s.byteAt 0x800) → ¬DataHeader s.variant (s.byteAt 0x800) →
      FailsWith .frmDecode s .header) ∧
    (s.flen.toNat ≠ 0 → ControlByte (s.byteAt 0x800) → s.flen.toNat ≠ 1 → FailsWith .frmDecode s .length) ∧
    (s.flen.toNat ≠ 0 → DataHeader s.variant (s.byteAt 0x800) →
      s.flen.toNat ≠ 3 + sizeFor (s.byteAt 0x800) + trailerOf s.variant → FailsWith .frmDecode s .length) ∧
    (DataHeader s.variant (s.byteAt 0x800) → s.flen.toNat = 3 + sizeFor (s.byteAt 0x800) + trailerOf s.variant →
      s.byteAt 0x802 ≠ 0xFF - s.byteAt 0x801 → FailsWith .frmDecode s .complement) ∧
    (DataHeader s.variant (s.byteAt 0x800) → s.flen.toNat = 3 + sizeFor (s.byteAt 0x800) + trailerOf s.variant →
      s.byteAt 0x802 = 0xFF - s.byteAt 0x801 →
      s.bytesAt (0x803 + sizeFor (s.byteAt 0x800)) (trailerOf s.variant) ≠
        trailer s.variant (s.bytesAt 0x803 (sizeFor (s.byteAt 0x800))) → FailsWith .frmDecode s .integrity)

/-- FRM_DECODE of a control frame writes HDR and clears Z0, and nothing else (42_block_codec.md section 2). -/
def Obligations.FrmDecodeAcceptsControl : Prop :=
  PlainWord 0x00000022 .frmDecode ∧
  ∀ (s : State), s.flen = 1 → ControlByte (s.byteAt 0x800) →
    ∃ t, exec .frmDecode s = .next t ∧ t.hdr = s.byteAt 0x800 ∧ t.z0 = false ∧ t.result = .ok ∧ t.busy = false ∧
      { t with hdr := s.hdr, z0 := s.z0, result := s.result, busy := s.busy } = s ∧ s.bytesKept t

/-- FRM_DECODE of a right data frame delivers its header, sequence byte and payload, and Z0 by payload byte 0
(42_block_codec.md section 2, R160). -/
def Obligations.FrmDecodeAcceptsData : Prop :=
  ∀ (s : State) (h : Byte), s.byteAt 0x800 = h → DataHeader s.variant h →
    s.flen.toNat = 3 + sizeFor h + trailerOf s.variant →
    s.byteAt 0x802 = 0xFF - s.byteAt 0x801 →
    s.bytesAt (0x803 + sizeFor h) (trailerOf s.variant) = trailer s.variant (s.bytesAt 0x803 (sizeFor h)) →
    ∃ t, exec .frmDecode s = .next t ∧ t.hdr = h ∧ t.seq = s.byteAt 0x801 ∧ t.plen.toNat = sizeFor h ∧
      (∀ i, i < sizeFor h → t.byteAt (0x400 + i) = s.byteAt (0x803 + i)) ∧ s.bytesKeptOutside t 0x400 (sizeFor h) ∧
      (t.z0 = true ↔ s.byteAt 0x803 = 0x00) ∧ t.result = .ok ∧ t.busy = false ∧
      { t with
        hdr := s.hdr
        seq := s.seq
        plen := s.plen
        mem := s.mem
        z0 := s.z0
        result := s.result
        busy := s.busy } = s

/-- Encoding a block and decoding it gives back the header, the sequence byte and the padded payload (42_block_codec.md
R159). -/
def Obligations.FrameRoundTrip : Prop :=
  ∀ (s : State) (h : Byte) (sq : Byte) (pad : Pad), DataHeader s.variant h → s.plen.toNat ≤ sizeFor h →
    ∃ t u, exec (.frmEncode h sq pad) s = .next t ∧ exec .frmDecode t = .next u ∧ u.result = .ok ∧ u.hdr = h ∧
      u.seq = sq ∧ u.plen.toNat = sizeFor h ∧
      ∀ i, i < sizeFor h → u.byteAt (0x400 + i) =
        if i < s.plen.toNat then s.byteAt (0x400 + i) else if pad = .nul then 0x00 else 0x1A

/-- The YMODEM end-of-batch block: an all-NUL payload whose trailer is zero, decoded with Z0 = 1 (42_block_codec.md section
3). -/
def Obligations.EndOfBatchBlock : Prop :=
  ∀ (s : State), s.plen = 0 →
    ∃ t u, exec (.frmEncode 0x01 0x00 .nul) s = .next t ∧ (∀ i, i < 128 → t.byteAt (0x803 + i) = 0x00) ∧
      t.byteAt 0x883 = 0x00 ∧ (s.variant ≠ .checksum → t.byteAt 0x884 = 0x00) ∧ exec .frmDecode t = .next u ∧
      u.result = .ok ∧ u.hdr = 0x01 ∧ u.seq = 0x00 ∧ u.z0 = true

/-! ## Sequence classification -/

/-- The three classes are disjoint and cover everything: for each expected number one NEW, one DUP and 254 OOO sequence
bytes, with the wrap cases (43_sequence.md R180). -/
def Obligations.ClassifyPartition : Prop :=
  (∀ sq e : Byte, (classify sq e = .new ↔ sq = e) ∧
    (classify sq e = .dup ↔ sq ≠ e ∧ sq.toNat = (e.toNat + 255) % 256) ∧
    (classify sq e = .ooo ↔ sq ≠ e ∧ sq.toNat ≠ (e.toNat + 255) % 256)) ∧
  (∀ e : Byte, (∃! sq, classify sq e = .new) ∧ (∃! sq, classify sq e = .dup) ∧
    ∃ l : List Byte, l.Nodup ∧ l.length = 254 ∧ ∀ sq, sq ∈ l ↔ classify sq e = .ooo) ∧
  classify 0xFF 0x00 = .dup ∧ classify 0xFE 0xFF = .dup ∧ classify 0x00 0xFF = .ooo

/-- SEQ_CHECK writes SEQCLS on every outcome and reports ERR_SEQUENCE for OOO (43_sequence.md R181). -/
def Obligations.SeqCheckClassifies : Prop :=
  PlainWord 0x00000028 .seqCheck ∧
  ∀ (s : State), ∃ t, exec .seqCheck s = .next t ∧ t.seqCls = classify s.seq s.expect ∧ t.busy = false ∧
    (classify s.seq s.expect ≠ .ooo → t.result = .ok ∧ t.errs = s.errs) ∧
    (classify s.seq s.expect = .ooo → t.result = .sequence ∧ t.errs = true) ∧
    { t with seqCls := s.seqCls, result := s.result, errs := s.errs, busy := s.busy } = s ∧ s.bytesKept t

/-- SEQ_ADVANCE adds 1 to EXPECT modulo 256 and changes nothing else (43_sequence.md R182). -/
def Obligations.SeqAdvanceWraps : Prop :=
  PlainWord 0x00000029 .seqAdvance ∧
  ∀ (s : State), ∃ t, exec .seqAdvance s = .next t ∧ t.expect.toNat = (s.expect.toNat + 1) % 256 ∧ t.result = .ok ∧
    t.busy = false ∧ { t with expect := s.expect, result := s.result, busy := s.busy } = s ∧ s.bytesKept t

/-- After a NEW block is accepted, the same sequence byte is a DUP and the one after the expected is OOO, and neither moves
EXPECT, OCNT, the carry or any buffer byte (43_sequence.md section on the receive sequence). -/
def Obligations.DuplicateSuppression : Prop :=
  ∀ (s : State), s.seq = s.expect →
    ∃ t u v w, exec .seqCheck s = .next t ∧ t.seqCls = .new ∧ exec .seqAdvance t = .next u ∧
      exec .seqCheck u = .next v ∧ v.seqCls = .dup ∧ v.result = .ok ∧ v.expect = u.expect ∧ v.ocnt = s.ocnt ∧
      v.carry = s.carry ∧ s.bytesKept v ∧ exec .seqCheck { u with seq := s.expect + 2 } = .next w ∧ w.seqCls = .ooo ∧
      w.result = .sequence ∧ w.expect = u.expect ∧ w.ocnt = s.ocnt ∧ w.carry = s.carry ∧ s.bytesKept w

/-! ## Normalizer -/

/-- The 16 cells of the pair table, with the corrected SUB row, and the line ends they emit (44_normalizer.md R192, R194). -/
def Obligations.PairTable : Prop :=
  (∀ p c x y, OtherByte x → OtherByte y →
    pair p c 0x0D 0x0D = (doubleEnd p c, none) ∧ pair p c 0x0D 0x0A = (lineEnd c, none) ∧
    pair p c 0x0D 0x1A = (lineEnd c, none) ∧ pair p c 0x0D y = (lineEnd c, some y) ∧
    pair p c 0x0A 0x0D = (lineEnd c, none) ∧ pair p c 0x0A 0x0A = (doubleEnd p c, none) ∧
    pair p c 0x0A 0x1A = (lineEnd c, none) ∧ pair p c 0x0A y = (lineEnd c, some y) ∧
    pair p c 0x1A 0x0D = ([], some 0x0D) ∧ pair p c 0x1A 0x0A = ([], some 0x0A) ∧
    pair p c 0x1A 0x1A = ([], none) ∧ pair p c 0x1A y = ([y], none) ∧
    pair p c x 0x0D = ([x], some 0x0D) ∧ pair p c x 0x0A = ([x], some 0x0A) ∧
    pair p c x 0x1A = ([x], none) ∧ pair p c x y = ([x, y], none)) ∧
  (∀ c, doubleEnd .literal c = [0x0D, 0x0A, 0x0D, 0x0A] ∧ doubleEnd .target c = lineEnd c ++ lineEnd c) ∧
  lineEnd .crlf = [0x0D, 0x0A] ∧ lineEnd .lf = [0x0A]

/-- One input byte waits when none is pending and makes a pair with the pending one otherwise, the carry being always that
byte; the flush takes SUB for the missing second byte and leaves none pending (44_normalizer.md R196, R197, R198). -/
def Obligations.NstepAndNflush : Prop :=
  (∀ p c b, nstep p c none b = ([], some b)) ∧ (∀ p c f b, nstep p c (some f) b = pair p c f b) ∧
  (∀ p c f b k, (pair p c f b).2 = some k → k = b) ∧ (∀ p c, nflush p c none = ([], none)) ∧
  (∀ p c f, nflush p c (some f) = ((pair p c f 0x1A).1, none) ∧ (pair p c f 0x1A).2 = none) ∧
  (∀ p c, (pair p c 0x0D 0x1A).1 = lineEnd c ∧ (pair p c 0x0A 0x1A).1 = lineEnd c ∧ (pair p c 0x1A 0x1A).1 = []) ∧
  (∀ p c f, OtherByte f → (pair p c f 0x1A).1 = [f])

/-- NORM_BYTE holds the byte when none is pending, else emits the pair's output at OBUF[OCNT]; it reports ERR_OVERFLOW and
consumes nothing when the output does not fit (44_normalizer.md R200, with R197 and R204). -/
def Obligations.NormByteAppends : Prop :=
  ByteWord 0x00000031 .normByte ∧
  ∀ (s : State) (b : Byte) (out : List Byte) (k : Option Byte),
    (s.carry = none ∧ out = [] ∧ k = some b ∨ ∃ f, s.carry = some f ∧ pair Config.dblLe s.conv f b = (out, k)) →
    (s.ocnt.toNat + out.length ≤ 2050 →
      ∃ t, exec (.normByte b) s = .next t ∧ t.bytesAt (0x1000 + s.ocnt.toNat) out.length = out ∧
        s.bytesKeptOutside t (0x1000 + s.ocnt.toNat) out.length ∧ t.ocnt.toNat = s.ocnt.toNat + out.length ∧
        t.carry = k ∧ t.result = .ok ∧ t.busy = false ∧
        { t with
          mem := s.mem
          ocnt := s.ocnt
          carry := s.carry
          result := s.result
          busy := s.busy } = s) ∧
    (2050 < s.ocnt.toNat + out.length → FailsWith (.normByte b) s .overflow)

/-- NORM_FLUSH emits LE for a pending CR or LF, nothing for a pending SUB or none, and a pending OTHER byte itself, and
empties the carry; it reports ERR_OVERFLOW when the output does not fit (44_normalizer.md R201, with R196, R198 and
R204). -/
def Obligations.NormFlushFlushesCarry : Prop :=
  PlainWord 0x00000032 .normFlush ∧
  ∀ (s : State) (out : List Byte),
    ((s.carry = none ∨ s.carry = some 0x1A) ∧ out = [] ∨
      (s.carry = some 0x0D ∨ s.carry = some 0x0A) ∧ out = lineEnd s.conv ∨
      ∃ f, OtherByte f ∧ s.carry = some f ∧ out = [f]) →
    (s.ocnt.toNat + out.length ≤ 2050 →
      ∃ t, exec .normFlush s = .next t ∧ t.bytesAt (0x1000 + s.ocnt.toNat) out.length = out ∧
        s.bytesKeptOutside t (0x1000 + s.ocnt.toNat) out.length ∧ t.ocnt.toNat = s.ocnt.toNat + out.length ∧
        t.carry = none ∧ t.result = .ok ∧ t.busy = false ∧
        { t with
          mem := s.mem
          ocnt := s.ocnt
          carry := s.carry
          result := s.result
          busy := s.busy } = s) ∧
    (2050 < s.ocnt.toNat + out.length → FailsWith .normFlush s .overflow)

/-- DELIVER writes the payload to OBUF from index 0: verbatim in BINARY, leaving the carry, and through `nstep` byte by byte
in TEXT; it reports ERR_OPERAND when PLEN exceeds 1024 (44_normalizer.md R202). -/
def Obligations.DeliverWritesObuf : Prop :=
  PlainWord 0x00000033 .deliver ∧
  ∀ (s : State),
    (s.plen.toNat ≤ 1024 →
      ∃ t out, exec .deliver s = .next t ∧
        (s.mode = .binary → out = s.bytesAt 0x400 s.plen.toNat ∧ t.carry = s.carry) ∧
        (s.mode = .text → (out, t.carry) =
          (List.range s.plen.toNat).foldl
            (fun acc i =>
              (acc.1 ++ (nstep Config.dblLe s.conv acc.2 (s.byteAt (0x400 + i))).1,
                (nstep Config.dblLe s.conv acc.2 (s.byteAt (0x400 + i))).2))
            ([], s.carry)) ∧
        t.ocnt.toNat = out.length ∧ t.bytesAt 0x1000 out.length = out ∧ s.bytesKeptOutside t 0x1000 out.length ∧
        t.result = .ok ∧ t.busy = false ∧
        { t with
          mem := s.mem
          ocnt := s.ocnt
          carry := s.carry
          result := s.result
          busy := s.busy } = s) ∧
    (1024 < s.plen.toNat → FailsWith .deliver s .operand)

/-- No cell emits more than two bytes for each byte it consumes, so one DELIVER emits at most 2050 bytes and never overflows,
and a flush emits at most 2 (44_normalizer.md R205). -/
def Obligations.NormalizerOutputBound : Prop :=
  (∀ p c f x, (pair p c f x).1.length ≤ if (pair p c f x).2 = none then 4 else 2) ∧
  (∀ p c b, (nstep p c none b).1 = []) ∧ (∀ p c k, (nflush p c k).1.length ≤ 2) ∧
  (∀ (s : State), s.plen.toNat ≤ 1024 → ∃ t, exec .deliver s = .next t ∧ t.result = .ok ∧ t.ocnt.toNat ≤ 2050)

/-- The output of a flushed stream holds only 0x0D and 0x0A, both of line ends alone, and the OTHER bytes of the input, each
once and in order, and no SUB; under LF with P_DBL_LE = TARGET it holds no 0x0D, and with LITERAL only the CR CR and LF LF
cells give one (44_normalizer.md R207). -/
def Obligations.NormalizerOutputAlphabet : Prop :=
  (∀ p c k data out,
    out = (nrun p c k data).1 ++ (nflush p c (nrun p c k data).2).1 →
    (∀ b ∈ out, b ≠ 0x1A) ∧
    (out.filter fun b => classOf b = .other) = ((k.toList ++ data).filter fun b => classOf b = .other) ∧
    (p = .target → c = .lf → ∀ b ∈ out, b ≠ 0x0D)) ∧
  (∀ p c f x b, b ∈ (pair p c f x).1 → classOf b ≠ .other →
    (pair p c f x).1 = lineEnd c ∨ (pair p c f x).1 = doubleEnd p c) ∧
  (∀ f x, 0x0D#8 ∈ (pair .literal .lf f x).1 → (f = 0x0D ∧ x = 0x0D) ∨ (f = 0x0A ∧ x = 0x0A))

/-- DELIVER in TEXT mode of a payload in one piece and in two, the carry kept between them, gives the same output and the
same carry, wherever it is cut; and a one-byte DELIVER and a NORM_BYTE of that byte at OCNT = 0 emit the same
(44_normalizer.md section 5, re-chunking). NORM_BYTE at a larger OCNT is NormByteAppends. -/
def Obligations.DeliverRechunking : Prop :=
  (∀ s s1 s2 t1 : State, s.mode = .text → s1.mode = .text → s2.mode = .text → s1.conv = s.conv → s2.conv = s.conv →
    s.plen.toNat ≤ 1024 → s.plen.toNat = s1.plen.toNat + s2.plen.toNat → s1.carry = s.carry →
    (∀ i, i < s1.plen.toNat → s1.byteAt (0x400 + i) = s.byteAt (0x400 + i)) →
    (∀ i, i < s2.plen.toNat → s2.byteAt (0x400 + i) = s.byteAt (0x400 + s1.plen.toNat + i)) →
    exec .deliver s1 = .next t1 → s2.carry = t1.carry →
    ∃ t t2, exec .deliver s = .next t ∧ exec .deliver s2 = .next t2 ∧
      obufContents t = obufContents t1 ++ obufContents t2 ∧ t.carry = t2.carry) ∧
  (∀ (s : State), s.mode = .text → s.plen = 1 → s.ocnt = 0 →
    ∃ t u, exec .deliver s = .next t ∧ exec (.normByte (s.byteAt 0x400)) s = .next u ∧
      obufContents t = obufContents u ∧ t.carry = u.carry)

/-- SUB padding behind data of OTHER bytes is dropped: the flushed stream is exactly the data, and with an even count of
each nothing stays pending (95_test_vectors.md E6). -/
def Obligations.PadStripping : Prop :=
  ∀ p c data n, (∀ b ∈ data, OtherByte b) →
    (nrun p c none (data ++ List.replicate n 0x1A)).1 ++
        (nflush p c (nrun p c none (data ++ List.replicate n 0x1A)).2).1 = data ∧
    (data.length % 2 = 0 → n % 2 = 0 → nrun p c none (data ++ List.replicate n 0x1A) = (data, none))

/-! ## The whole machine -/

/-- Every command completes: BUSY = 0; with a nonzero result ERRS = 1 and nothing else has changed but SEQCLS for SEQ_CHECK,
and with result OK the sticky ERRS stays (00_scope.md R10). -/
def Obligations.CommandErrorAtomicity : Prop :=
  ∀ (i : Instr) (s : State), ∃ t, exec i s = .next t ∧ t.busy = false ∧ (t.result = .ok → t.errs = s.errs) ∧
    (t.result ≠ .ok → t.errs = true ∧ s.bytesKept t ∧ (i ≠ .seqCheck → t.seqCls = s.seqCls) ∧
      { t with result := s.result, errs := s.errs, busy := s.busy, seqCls := s.seqCls } = s)

/-- Each command reports only the error codes that are its own (60_exceptions.md section 1). -/
def Obligations.ResultCodesOfCommands : Prop :=
  ∀ (i : Instr) (s : State) (t : State), exec i s = .next t → t.result = .ok ∨ t.result ∈ errorsOf i

/-- Only the commands the rules name write each register and each buffer; no command writes CFG, CMDLATCH or OVR
(10_state.md sections 1 and 4). -/
def Obligations.RegisterWriters : Prop :=
  ∀ (i : Instr) (s : State) (t : State), exec i s = .next t →
    t.variant = s.variant ∧ t.mode = s.mode ∧ t.conv = s.conv ∧ t.cmdLatch = s.cmdLatch ∧ t.ovr = s.ovr ∧
    (writesCrc i = false → t.crc = s.crc) ∧ (writesCsum i = false → t.csum = s.csum) ∧
    (writesExpect i = false → t.expect = s.expect) ∧
    (writesDecoded i = false → t.hdr = s.hdr ∧ t.seq = s.seq ∧ t.z0 = s.z0) ∧
    (i ≠ .frmDecode → t.plen = s.plen) ∧ (writesFlen i = false → t.flen = s.flen) ∧
    (writesOcnt i = false → t.ocnt = s.ocnt) ∧ (writesCarry i = false → t.carry = s.carry) ∧
    (writesSeqCls i = false → t.seqCls = s.seqCls) ∧
    (i ≠ .frmDecode → ∀ x, x < 1024 → t.byteAt (0x400 + x) = s.byteAt (0x400 + x)) ∧
    (writesFlen i = false → ∀ x, x < 1029 → t.byteAt (0x800 + x) = s.byteAt (0x800 + x)) ∧
    (writesObuf i = false → ∀ x, x < 2050 → t.byteAt (0x1000 + x) = s.byteAt (0x1000 + x))

/-- Over any step: ERRS and OVR are cleared only by a host write of 1 to their bit or by reset, ERRS is set only by a
completion and OVR only by a write while BUSY = 1, and CFG changes only by a host write to it with BUSY = 0 or by reset
(10_state.md sections 1 and 4). -/
def Obligations.StickyBitsAndCfgHostOwned : Prop :=
  ∀ (s : State) (t : State), step s = .next t →
    (s.errs = true → t.errs = false →
      ∃ rest, s.inputs = .reset :: rest ∨
        ∃ v, s.inputs = .access (.write32 0x00C v) :: rest ∧ v.getLsbD 8 = true) ∧
    (s.ovr = true → t.ovr = false →
      ∃ rest, s.inputs = .reset :: rest ∨
        ∃ v, s.inputs = .access (.write32 0x00C v) :: rest ∧ v.getLsbD 9 = true) ∧
    (s.errs = false → t.errs = true → s.busy = true ∧ t.busy = false ∧ t.result ≠ .ok) ∧
    (s.ovr = false → t.ovr = true →
      s.busy = true ∧ ∃ a rest, s.inputs = .access a :: rest ∧ a.isWrite = true ∧ a.legal = true) ∧
    (t.variant ≠ s.variant ∨ t.mode ≠ s.mode ∨ t.conv ≠ s.conv →
      ∃ rest, s.inputs = .reset :: rest ∨ ∃ v, s.inputs = .access (.write32 0x004 v) :: rest ∧ s.busy = false)
end

