-- ==== Sys2Proof/Laws/Memory.lean ====
section
/-! SUPPORT. The laws of the buffers' memory: what a write leaves at each offset, that every operation keeps the canonical
form, and what a run of bytes reads as. -/

namespace Sys2Proof.Machine

/-! ## The cells of a run of bytes -/

theorem Memory.mem_cells_bounds {a : Nat} {bs : List Byte} {c : Host.Cell} (h : c ∈ Memory.cells a bs) :
    a ≤ c.1 ∧ c.1 < a + bs.length := by
  induction bs generalizing a with
  | nil => simp [Memory.cells] at h
  | cons b bs ih =>
    simp only [Memory.cells, List.mem_cons] at h
    rcases h with rfl | h
    · simp
    · have := ih h
      simp only [List.length_cons]
      omega

theorem Memory.cells_wf (a : Nat) (bs : List Byte) : Memory.wf (Memory.cells a bs) := by
  induction bs generalizing a with
  | nil => simp [Memory.cells]
  | cons b bs ih =>
    refine List.pairwise_cons.2 ⟨fun c hc => ?_, ih (a + 1)⟩
    have := (Memory.mem_cells_bounds hc).1
    show a < c.1
    omega

theorem Memory.lookup_cells (a : Nat) (bs : List Byte) (x : Nat) :
    (Memory.cells a bs).lookup x = if a ≤ x then bs[x - a]? else none := by
  induction bs generalizing a with
  | nil => simp [Memory.cells, Memory.lookup]
  | cons b bs ih =>
    simp only [Memory.cells, Memory.lookup, ih]
    by_cases hx : a = x
    · subst hx; simp
    · by_cases h : a ≤ x
      · have e : x - a = (x - (a + 1)) + 1 := by omega
        simp [hx, h, show a + 1 ≤ x by omega, e]
      · simp [hx, h, show ¬a + 1 ≤ x by omega]

/-! ## Lookup through append and filter -/

theorem Memory.lookup_append (m n : Memory) (x : Nat) :
    Memory.lookup (m ++ n) x = (Memory.lookup m x).or (Memory.lookup n x) := by
  induction m with
  | nil => simp [Memory.lookup]
  | cons c m ih =>
    simp only [List.cons_append, Memory.lookup, ih]
    split <;> simp

theorem Memory.lookup_filter (m : Memory) (p : Nat → Bool) (x : Nat) :
    Memory.lookup (m.filter fun c => p c.1) x = if p x then Memory.lookup m x else none := by
  induction m with
  | nil => simp [Memory.lookup]
  | cons c m ih =>
    simp only [List.filter_cons, Memory.lookup]
    by_cases hc : c.1 = x
    · subst hc
      by_cases hp : p c.1 <;> simp [hp, Memory.lookup, ih]
    · by_cases hp : p c.1 <;> simp [hp, Memory.lookup, ih, hc]

/-! ## Writes -/

/-- What a write leaves at each offset: the written bytes inside the run, everything else as before. -/
theorem Memory.lookup_write (m : Memory) (a : Nat) (bs : List Byte) (x : Nat) :
    (m.write a bs).lookup x = if a ≤ x ∧ x < a + bs.length then bs[x - a]? else m.lookup x := by
  rw [Memory.write, Memory.lookup_append, Memory.lookup_append, Memory.lookup_cells,
    Memory.lookup_filter m (fun k => decide (k < a)), Memory.lookup_filter m (fun k => decide (a + bs.length ≤ k))]
  by_cases h1 : x < a
  · simp [h1, show ¬a ≤ x by omega, show ¬a + bs.length ≤ x by omega]
  · by_cases h2 : x < a + bs.length
    · have : x - a < bs.length := by omega
      simp [h1, h2, show a ≤ x by omega, show ¬a + bs.length ≤ x by omega, this]
    · have : bs.length ≤ x - a := by omega
      simp [h1, h2, show a ≤ x by omega, show a + bs.length ≤ x by omega, List.getElem?_eq_none this]

/-- A write keeps the canonical form. -/
theorem Memory.write_wf {m : Memory} (h : m.wf) (a : Nat) (bs : List Byte) : (m.write a bs).wf := by
  refine List.pairwise_append.2 ⟨List.pairwise_append.2 ⟨h.filter _, Memory.cells_wf a bs, ?_⟩, h.filter _, ?_⟩
  · intro c hc d hd
    have h1 : c.1 < a := by simpa using (List.mem_filter.1 hc).2
    have h2 := Memory.mem_cells_bounds hd
    show c.1 < d.1
    omega
  · intro c hc d hd
    have h2 : a + bs.length ≤ d.1 := by simpa using (List.mem_filter.1 hd).2
    show c.1 < d.1
    rcases List.mem_append.1 hc with hc | hc
    · have h1 : c.1 < a := by simpa using (List.mem_filter.1 hc).2
      omega
    · have := Memory.mem_cells_bounds hc
      omega

/-- The cells of a written memory are old cells or cells of the run. -/
theorem Memory.mem_write {m : Memory} {a : Nat} {bs : List Byte} {c : Host.Cell} (h : c ∈ m.write a bs) :
    c ∈ m ∨ (a ≤ c.1 ∧ c.1 < a + bs.length) := by
  rcases List.mem_append.1 h with h | h
  · rcases List.mem_append.1 h with h | h
    · exact .inl (List.mem_filter.1 h).1
    · exact .inr (Memory.mem_cells_bounds h)
  · exact .inl (List.mem_filter.1 h).1

/-! ## Bytes of the state -/

/-- What a byte reads as after a write to memory, the draw of the unwritten bytes unchanged. -/
theorem State.byteAt_write {s t : State} {a : Nat} {bs : List Byte} (hm : t.mem = s.mem.write a bs)
    (hb : t.bufSeed = s.bufSeed) (x : Nat) :
    t.byteAt x = if h : a ≤ x ∧ x < a + bs.length then bs[x - a]'(by omega) else s.byteAt x := by
  simp only [State.byteAt, hm, hb, Memory.lookup_write]
  split
  · rename_i h
    simp [List.getElem?_eq_getElem (show x - a < bs.length by omega)]
  · rfl

theorem State.byteAt_write_inside {s t : State} {a : Nat} {bs : List Byte} (hm : t.mem = s.mem.write a bs)
    (hb : t.bufSeed = s.bufSeed) {i : Nat} (hi : i < bs.length) : t.byteAt (a + i) = bs[i] := by
  rw [State.byteAt_write hm hb, dif_pos (by omega)]
  congr 1
  omega

theorem State.byteAt_write_outside {s t : State} {a : Nat} {bs : List Byte} (hm : t.mem = s.mem.write a bs)
    (hb : t.bufSeed = s.bufSeed) : s.bytesKeptOutside t a bs.length := by
  intro x hx
  rw [State.byteAt_write hm hb, dif_neg (by omega)]

theorem State.byteAt_congr {s t : State} (hm : t.mem = s.mem) (hb : t.bufSeed = s.bufSeed) : s.bytesKept t := by
  intro x
  simp [State.byteAt, hm, hb]

@[simp] theorem State.bytesAt_length (s : State) (a n : Nat) : (s.bytesAt a n).length = n := by simp [State.bytesAt]

theorem State.bytesAt_getElem (s : State) (a n i : Nat) (h : i < (s.bytesAt a n).length) :
    (s.bytesAt a n)[i] = s.byteAt (a + i) := by simp [State.bytesAt]

/-- A run of bytes reads as the list whose elements its offsets read as. -/
theorem State.bytesAt_eq {s : State} {a : Nat} {bs : List Byte} (h : ∀ i (hi : i < bs.length), s.byteAt (a + i) = bs[i]) :
    s.bytesAt a bs.length = bs :=
  List.ext_getElem (by simp) fun i h1 h2 => by rw [State.bytesAt_getElem, h i h2]

/-- Reading a run back after writing it gives the bytes written. -/
theorem State.bytesAt_write {s t : State} {a : Nat} {bs : List Byte} (hm : t.mem = s.mem.write a bs)
    (hb : t.bufSeed = s.bufSeed) : t.bytesAt a bs.length = bs :=
  State.bytesAt_eq fun _ hi => State.byteAt_write_inside hm hb hi

/-- Two states with the same bytes in a run read the same run. -/
theorem State.bytesAt_congr {s t : State} {a n : Nat} (h : ∀ i, i < n → t.byteAt (a + i) = s.byteAt (a + i)) :
    t.bytesAt a n = s.bytesAt a n :=
  List.ext_getElem (by simp) fun i h1 h2 => by
    rw [State.bytesAt_getElem, State.bytesAt_getElem, h i (by simpa using h1)]

/-- A run is its first part and the part after it. -/
theorem State.bytesAt_add (s : State) (a m n : Nat) : s.bytesAt a (m + n) = s.bytesAt a m ++ s.bytesAt (a + m) n :=
  List.ext_getElem (by simp) fun i h1 h2 => by
    rw [State.bytesAt_getElem, List.getElem_append]
    split
    · rw [State.bytesAt_getElem]
    · rename_i h
      rw [State.bytesAt_getElem]
      congr 1
      simp only [State.bytesAt_length] at h ⊢
      omega

/-- A run that reads as two lists joined reads as the first and then the second. -/
theorem State.bytesAt_split {s : State} {a : Nat} {bs cs : List Byte} (h : s.bytesAt a (bs ++ cs).length = bs ++ cs) :
    s.bytesAt a bs.length = bs ∧ s.bytesAt (a + bs.length) cs.length = cs := by
  rw [List.length_append, State.bytesAt_add] at h
  exact List.append_inj h (by simp)

end Sys2Proof.Machine
end

