-- ==== Sys2Proof/Laws/Checksum.lean ====
section
/-! SUPPORT. The laws of the CRC generator and the checksum (41_checksum_crc.md R130 to R132). -/

namespace Sys2Proof.Machine

@[simp] theorem crcFrom_nil (c : Half) : crcFrom c [] = c := rfl

@[simp] theorem crcFrom_cons (c : Half) (b : Byte) (bs : List Byte) : crcFrom c (b :: bs) = crcFrom (crcStep c b) bs := rfl

/-- The generator over a sequence goes on from where it stands after the first part (41_checksum_crc.md R134). -/
theorem crcFrom_append (c : Half) (xs ys : List Byte) : crcFrom c (xs ++ ys) = crcFrom (crcFrom c xs) ys :=
  List.foldl_append

@[simp] theorem checksumFrom_nil (c : Byte) : checksumFrom c [] = c := rfl

@[simp] theorem checksumFrom_cons (c b : Byte) (bs : List Byte) :
    checksumFrom c (b :: bs) = checksumFrom (c + b) bs := rfl

theorem checksumFrom_append (c : Byte) (xs ys : List Byte) :
    checksumFrom c (xs ++ ys) = checksumFrom (checksumFrom c xs) ys := List.foldl_append

/-- The checksum from a start value is that value plus the checksum from zero. -/
theorem checksumFrom_eq_add (c : Byte) (xs : List Byte) : checksumFrom c xs = c + checksumFrom 0 xs := by
  induction xs generalizing c with
  | nil => simp
  | cons b bs ih =>
    rw [checksumFrom_cons, checksumFrom_cons, ih (c + b), ih (0 + b)]
    simp [BitVec.add_assoc]

/-- One turn of the loop is a shift and, when bit 15 was set, an exclusive-or with the polynomial. -/
theorem crcShift_eq (c : Half) : crcShift c = (c <<< 1) ^^^ (if c.getLsbD 15 then 0x1021#16 else 0) := by
  unfold crcShift
  split <;> simp

/-- One turn of the loop is linear over GF(2) (41_checksum_crc.md R131). -/
theorem crcShift_xor (a b : Half) : crcShift (a ^^^ b) = crcShift a ^^^ crcShift b := by
  simp only [crcShift_eq, BitVec.getLsbD_xor, BitVec.shiftLeft_xor_distrib]
  cases a.getLsbD 15 <;> cases b.getLsbD 15 <;> simp [BitVec.xor_assoc]
  exact BitVec.xor_comm ..

theorem crcShifts_xor (n : Nat) (a b : Half) : crcShifts n (a ^^^ b) = crcShifts n a ^^^ crcShifts n b := by
  induction n generalizing a b with
  | zero => rfl
  | succ n ih => simp [crcShifts, crcShift_xor, ih]

@[simp] theorem crcStep_zero : crcStep 0 0 = 0 := by decide

/-- The checksum is the sum of the bytes modulo 256 (41_checksum_crc.md R132). -/
theorem checksumFrom_toNat (c : Byte) (d : List Byte) :
    (checksumFrom c d).toNat = (c.toNat + (d.map BitVec.toNat).sum) % 256 := by
  induction d generalizing c with
  | nil => simp [Nat.mod_eq_of_lt c.isLt]
  | cons b d ih =>
    rw [checksumFrom_cons, ih]
    simp [BitVec.toNat_add]
    omega

/-- `crc_step` is linear over GF(2) in both arguments (41_checksum_crc.md R131). -/
theorem crcStep_xor (c d : Half) (a b : Byte) : crcStep (c ^^^ d) (a ^^^ b) = crcStep c a ^^^ crcStep d b := by
  rw [crcStep, crcStep, crcStep, ← crcShifts_xor]
  congr 1
  have h : (a ^^^ b) ++ 0#8 = (a ++ 0#8) ^^^ (b ++ 0#8) := by
    apply BitVec.eq_of_getLsbD_eq
    intro i hi
    simp only [BitVec.getLsbD_append, BitVec.getLsbD_xor]
    split <;> simp
  rw [h]
  ac_rfl

/-- Eight turns of the loop on a value below 256 only move it up: no bit reaches bit 15 before. -/
theorem crcShifts_low : ∀ b : Byte, crcShifts 8 (0#8 ++ b) = b ++ 0#8 := by decide +kernel

end Sys2Proof.Machine
end

