-- ==== Sys2Proof/Laws/State.lean ====
section
/-! SUPPORT. What each shared update of State leaves in each field: one lemma per field per update, so that no proof unfolds
a record update. -/

namespace Sys2Proof.Machine

variable (s : State)

/-! ## `State.finishOk`: `finish(OK)` (00_scope.md R10) -/

@[simp] theorem State.finishOk_variant : (s.finishOk).variant = s.variant := rfl
@[simp] theorem State.finishOk_mode : (s.finishOk).mode = s.mode := rfl
@[simp] theorem State.finishOk_conv : (s.finishOk).conv = s.conv := rfl
@[simp] theorem State.finishOk_cmdLatch : (s.finishOk).cmdLatch = s.cmdLatch := rfl
@[simp] theorem State.finishOk_result : (s.finishOk).result = .ok := rfl
@[simp] theorem State.finishOk_busy : (s.finishOk).busy = false := rfl
@[simp] theorem State.finishOk_seqCls : (s.finishOk).seqCls = s.seqCls := rfl
@[simp] theorem State.finishOk_z0 : (s.finishOk).z0 = s.z0 := rfl
@[simp] theorem State.finishOk_errs : (s.finishOk).errs = s.errs := rfl
@[simp] theorem State.finishOk_ovr : (s.finishOk).ovr = s.ovr := rfl
@[simp] theorem State.finishOk_crc : (s.finishOk).crc = s.crc := rfl
@[simp] theorem State.finishOk_csum : (s.finishOk).csum = s.csum := rfl
@[simp] theorem State.finishOk_expect : (s.finishOk).expect = s.expect := rfl
@[simp] theorem State.finishOk_hdr : (s.finishOk).hdr = s.hdr := rfl
@[simp] theorem State.finishOk_seq : (s.finishOk).seq = s.seq := rfl
@[simp] theorem State.finishOk_plen : (s.finishOk).plen = s.plen := rfl
@[simp] theorem State.finishOk_flen : (s.finishOk).flen = s.flen := rfl
@[simp] theorem State.finishOk_ocnt : (s.finishOk).ocnt = s.ocnt := rfl
@[simp] theorem State.finishOk_carry : (s.finishOk).carry = s.carry := rfl
@[simp] theorem State.finishOk_mem : (s.finishOk).mem = s.mem := rfl
@[simp] theorem State.finishOk_lat : (s.finishOk).lat = s.lat := rfl
@[simp] theorem State.finishOk_inputs : (s.finishOk).inputs = s.inputs := rfl
@[simp] theorem State.finishOk_response : (s.finishOk).response = s.response := rfl
@[simp] theorem State.finishOk_fresh : (s.finishOk).fresh = s.fresh := rfl
@[simp] theorem State.finishOk_bufSeed : (s.finishOk).bufSeed = s.bufSeed := rfl

/-! ## `State.raise`: `raise c` (00_scope.md R10) -/

@[simp] theorem State.raise_variant (c : ResultCode) : (s.raise c).variant = s.variant := rfl
@[simp] theorem State.raise_mode (c : ResultCode) : (s.raise c).mode = s.mode := rfl
@[simp] theorem State.raise_conv (c : ResultCode) : (s.raise c).conv = s.conv := rfl
@[simp] theorem State.raise_cmdLatch (c : ResultCode) : (s.raise c).cmdLatch = s.cmdLatch := rfl
@[simp] theorem State.raise_result (c : ResultCode) : (s.raise c).result = c := rfl
@[simp] theorem State.raise_busy (c : ResultCode) : (s.raise c).busy = false := rfl
@[simp] theorem State.raise_seqCls (c : ResultCode) : (s.raise c).seqCls = s.seqCls := rfl
@[simp] theorem State.raise_z0 (c : ResultCode) : (s.raise c).z0 = s.z0 := rfl
@[simp] theorem State.raise_errs (c : ResultCode) : (s.raise c).errs = true := rfl
@[simp] theorem State.raise_ovr (c : ResultCode) : (s.raise c).ovr = s.ovr := rfl
@[simp] theorem State.raise_crc (c : ResultCode) : (s.raise c).crc = s.crc := rfl
@[simp] theorem State.raise_csum (c : ResultCode) : (s.raise c).csum = s.csum := rfl
@[simp] theorem State.raise_expect (c : ResultCode) : (s.raise c).expect = s.expect := rfl
@[simp] theorem State.raise_hdr (c : ResultCode) : (s.raise c).hdr = s.hdr := rfl
@[simp] theorem State.raise_seq (c : ResultCode) : (s.raise c).seq = s.seq := rfl
@[simp] theorem State.raise_plen (c : ResultCode) : (s.raise c).plen = s.plen := rfl
@[simp] theorem State.raise_flen (c : ResultCode) : (s.raise c).flen = s.flen := rfl
@[simp] theorem State.raise_ocnt (c : ResultCode) : (s.raise c).ocnt = s.ocnt := rfl
@[simp] theorem State.raise_carry (c : ResultCode) : (s.raise c).carry = s.carry := rfl
@[simp] theorem State.raise_mem (c : ResultCode) : (s.raise c).mem = s.mem := rfl
@[simp] theorem State.raise_lat (c : ResultCode) : (s.raise c).lat = s.lat := rfl
@[simp] theorem State.raise_inputs (c : ResultCode) : (s.raise c).inputs = s.inputs := rfl
@[simp] theorem State.raise_response (c : ResultCode) : (s.raise c).response = s.response := rfl
@[simp] theorem State.raise_fresh (c : ResultCode) : (s.raise c).fresh = s.fresh := rfl
@[simp] theorem State.raise_bufSeed (c : ResultCode) : (s.raise c).bufSeed = s.bufSeed := rfl

/-! ## `State.respond`: answering an access -/

@[simp] theorem State.respond_variant (r : Response) : (s.respond r).variant = s.variant := rfl
@[simp] theorem State.respond_mode (r : Response) : (s.respond r).mode = s.mode := rfl
@[simp] theorem State.respond_conv (r : Response) : (s.respond r).conv = s.conv := rfl
@[simp] theorem State.respond_cmdLatch (r : Response) : (s.respond r).cmdLatch = s.cmdLatch := rfl
@[simp] theorem State.respond_result (r : Response) : (s.respond r).result = s.result := rfl
@[simp] theorem State.respond_busy (r : Response) : (s.respond r).busy = s.busy := rfl
@[simp] theorem State.respond_seqCls (r : Response) : (s.respond r).seqCls = s.seqCls := rfl
@[simp] theorem State.respond_z0 (r : Response) : (s.respond r).z0 = s.z0 := rfl
@[simp] theorem State.respond_errs (r : Response) : (s.respond r).errs = s.errs := rfl
@[simp] theorem State.respond_ovr (r : Response) : (s.respond r).ovr = s.ovr := rfl
@[simp] theorem State.respond_crc (r : Response) : (s.respond r).crc = s.crc := rfl
@[simp] theorem State.respond_csum (r : Response) : (s.respond r).csum = s.csum := rfl
@[simp] theorem State.respond_expect (r : Response) : (s.respond r).expect = s.expect := rfl
@[simp] theorem State.respond_hdr (r : Response) : (s.respond r).hdr = s.hdr := rfl
@[simp] theorem State.respond_seq (r : Response) : (s.respond r).seq = s.seq := rfl
@[simp] theorem State.respond_plen (r : Response) : (s.respond r).plen = s.plen := rfl
@[simp] theorem State.respond_flen (r : Response) : (s.respond r).flen = s.flen := rfl
@[simp] theorem State.respond_ocnt (r : Response) : (s.respond r).ocnt = s.ocnt := rfl
@[simp] theorem State.respond_carry (r : Response) : (s.respond r).carry = s.carry := rfl
@[simp] theorem State.respond_mem (r : Response) : (s.respond r).mem = s.mem := rfl
@[simp] theorem State.respond_lat (r : Response) : (s.respond r).lat = s.lat := rfl
@[simp] theorem State.respond_inputs (r : Response) : (s.respond r).inputs = s.inputs := rfl
@[simp] theorem State.respond_response (r : Response) : (s.respond r).response = some r := rfl
@[simp] theorem State.respond_fresh (r : Response) : (s.respond r).fresh = s.fresh := rfl
@[simp] theorem State.respond_bufSeed (r : Response) : (s.respond r).bufSeed = s.bufSeed := rfl

/-! ## `State.dropWrite`: a dropped write (20_memory.md R77) -/

@[simp] theorem State.dropWrite_variant : (s.dropWrite).variant = s.variant := rfl
@[simp] theorem State.dropWrite_mode : (s.dropWrite).mode = s.mode := rfl
@[simp] theorem State.dropWrite_conv : (s.dropWrite).conv = s.conv := rfl
@[simp] theorem State.dropWrite_cmdLatch : (s.dropWrite).cmdLatch = s.cmdLatch := rfl
@[simp] theorem State.dropWrite_result : (s.dropWrite).result = s.result := rfl
@[simp] theorem State.dropWrite_busy : (s.dropWrite).busy = s.busy := rfl
@[simp] theorem State.dropWrite_seqCls : (s.dropWrite).seqCls = s.seqCls := rfl
@[simp] theorem State.dropWrite_z0 : (s.dropWrite).z0 = s.z0 := rfl
@[simp] theorem State.dropWrite_errs : (s.dropWrite).errs = s.errs := rfl
@[simp] theorem State.dropWrite_ovr : (s.dropWrite).ovr = true := rfl
@[simp] theorem State.dropWrite_crc : (s.dropWrite).crc = s.crc := rfl
@[simp] theorem State.dropWrite_csum : (s.dropWrite).csum = s.csum := rfl
@[simp] theorem State.dropWrite_expect : (s.dropWrite).expect = s.expect := rfl
@[simp] theorem State.dropWrite_hdr : (s.dropWrite).hdr = s.hdr := rfl
@[simp] theorem State.dropWrite_seq : (s.dropWrite).seq = s.seq := rfl
@[simp] theorem State.dropWrite_plen : (s.dropWrite).plen = s.plen := rfl
@[simp] theorem State.dropWrite_flen : (s.dropWrite).flen = s.flen := rfl
@[simp] theorem State.dropWrite_ocnt : (s.dropWrite).ocnt = s.ocnt := rfl
@[simp] theorem State.dropWrite_carry : (s.dropWrite).carry = s.carry := rfl
@[simp] theorem State.dropWrite_mem : (s.dropWrite).mem = s.mem := rfl
@[simp] theorem State.dropWrite_lat : (s.dropWrite).lat = s.lat := rfl
@[simp] theorem State.dropWrite_inputs : (s.dropWrite).inputs = s.inputs := rfl
@[simp] theorem State.dropWrite_response : (s.dropWrite).response = s.response := rfl
@[simp] theorem State.dropWrite_fresh : (s.dropWrite).fresh = s.fresh := rfl
@[simp] theorem State.dropWrite_bufSeed : (s.dropWrite).bufSeed = s.bufSeed := rfl

/-! ## `State.passAccess`: taking an input -/

@[simp] theorem State.passAccess_variant (rest : List Input) : (s.passAccess rest).variant = s.variant := rfl
@[simp] theorem State.passAccess_mode (rest : List Input) : (s.passAccess rest).mode = s.mode := rfl
@[simp] theorem State.passAccess_conv (rest : List Input) : (s.passAccess rest).conv = s.conv := rfl
@[simp] theorem State.passAccess_cmdLatch (rest : List Input) : (s.passAccess rest).cmdLatch = s.cmdLatch := rfl
@[simp] theorem State.passAccess_result (rest : List Input) : (s.passAccess rest).result = s.result := rfl
@[simp] theorem State.passAccess_busy (rest : List Input) : (s.passAccess rest).busy = s.busy := rfl
@[simp] theorem State.passAccess_seqCls (rest : List Input) : (s.passAccess rest).seqCls = s.seqCls := rfl
@[simp] theorem State.passAccess_z0 (rest : List Input) : (s.passAccess rest).z0 = s.z0 := rfl
@[simp] theorem State.passAccess_errs (rest : List Input) : (s.passAccess rest).errs = s.errs := rfl
@[simp] theorem State.passAccess_ovr (rest : List Input) : (s.passAccess rest).ovr = s.ovr := rfl
@[simp] theorem State.passAccess_crc (rest : List Input) : (s.passAccess rest).crc = s.crc := rfl
@[simp] theorem State.passAccess_csum (rest : List Input) : (s.passAccess rest).csum = s.csum := rfl
@[simp] theorem State.passAccess_expect (rest : List Input) : (s.passAccess rest).expect = s.expect := rfl
@[simp] theorem State.passAccess_hdr (rest : List Input) : (s.passAccess rest).hdr = s.hdr := rfl
@[simp] theorem State.passAccess_seq (rest : List Input) : (s.passAccess rest).seq = s.seq := rfl
@[simp] theorem State.passAccess_plen (rest : List Input) : (s.passAccess rest).plen = s.plen := rfl
@[simp] theorem State.passAccess_flen (rest : List Input) : (s.passAccess rest).flen = s.flen := rfl
@[simp] theorem State.passAccess_ocnt (rest : List Input) : (s.passAccess rest).ocnt = s.ocnt := rfl
@[simp] theorem State.passAccess_carry (rest : List Input) : (s.passAccess rest).carry = s.carry := rfl
@[simp] theorem State.passAccess_mem (rest : List Input) : (s.passAccess rest).mem = s.mem := rfl
@[simp] theorem State.passAccess_lat (rest : List Input) : (s.passAccess rest).lat = s.lat - 1 := rfl
@[simp] theorem State.passAccess_inputs (rest : List Input) : (s.passAccess rest).inputs = rest := rfl
@[simp] theorem State.passAccess_response (rest : List Input) : (s.passAccess rest).response = s.response := rfl
@[simp] theorem State.passAccess_fresh (rest : List Input) : (s.passAccess rest).fresh = s.fresh := rfl
@[simp] theorem State.passAccess_bufSeed (rest : List Input) : (s.passAccess rest).bufSeed = s.bufSeed := rfl

/-! ## `State.writeCfg`: a CFG write (10_state.md R32, R33) -/

@[simp] theorem State.writeCfg_variant (v : Word) : (s.writeCfg v).variant = s.variant.ofWrite (v.extractLsb' 0 2) := rfl
@[simp] theorem State.writeCfg_mode (v : Word) : (s.writeCfg v).mode = Mode.ofBit (v.getLsbD 2) := rfl
@[simp] theorem State.writeCfg_conv (v : Word) : (s.writeCfg v).conv = Conv.ofBit (v.getLsbD 3) := rfl
@[simp] theorem State.writeCfg_cmdLatch (v : Word) : (s.writeCfg v).cmdLatch = s.cmdLatch := rfl
@[simp] theorem State.writeCfg_result (v : Word) : (s.writeCfg v).result = s.result := rfl
@[simp] theorem State.writeCfg_busy (v : Word) : (s.writeCfg v).busy = s.busy := rfl
@[simp] theorem State.writeCfg_seqCls (v : Word) : (s.writeCfg v).seqCls = s.seqCls := rfl
@[simp] theorem State.writeCfg_z0 (v : Word) : (s.writeCfg v).z0 = s.z0 := rfl
@[simp] theorem State.writeCfg_errs (v : Word) : (s.writeCfg v).errs = s.errs := rfl
@[simp] theorem State.writeCfg_ovr (v : Word) : (s.writeCfg v).ovr = s.ovr := rfl
@[simp] theorem State.writeCfg_crc (v : Word) : (s.writeCfg v).crc = s.crc := rfl
@[simp] theorem State.writeCfg_csum (v : Word) : (s.writeCfg v).csum = s.csum := rfl
@[simp] theorem State.writeCfg_expect (v : Word) : (s.writeCfg v).expect = s.expect := rfl
@[simp] theorem State.writeCfg_hdr (v : Word) : (s.writeCfg v).hdr = s.hdr := rfl
@[simp] theorem State.writeCfg_seq (v : Word) : (s.writeCfg v).seq = s.seq := rfl
@[simp] theorem State.writeCfg_plen (v : Word) : (s.writeCfg v).plen = s.plen := rfl
@[simp] theorem State.writeCfg_flen (v : Word) : (s.writeCfg v).flen = s.flen := rfl
@[simp] theorem State.writeCfg_ocnt (v : Word) : (s.writeCfg v).ocnt = s.ocnt := rfl
@[simp] theorem State.writeCfg_carry (v : Word) : (s.writeCfg v).carry = s.carry := rfl
@[simp] theorem State.writeCfg_mem (v : Word) : (s.writeCfg v).mem = s.mem := rfl
@[simp] theorem State.writeCfg_lat (v : Word) : (s.writeCfg v).lat = s.lat := rfl
@[simp] theorem State.writeCfg_inputs (v : Word) : (s.writeCfg v).inputs = s.inputs := rfl
@[simp] theorem State.writeCfg_response (v : Word) : (s.writeCfg v).response = s.response := rfl
@[simp] theorem State.writeCfg_fresh (v : Word) : (s.writeCfg v).fresh = s.fresh := rfl
@[simp] theorem State.writeCfg_bufSeed (v : Word) : (s.writeCfg v).bufSeed = s.bufSeed := rfl

/-! ## `State.writeStatus`: a STATUS write (10_state.md R35) -/

@[simp] theorem State.writeStatus_variant (v : Word) : (s.writeStatus v).variant = s.variant := rfl
@[simp] theorem State.writeStatus_mode (v : Word) : (s.writeStatus v).mode = s.mode := rfl
@[simp] theorem State.writeStatus_conv (v : Word) : (s.writeStatus v).conv = s.conv := rfl
@[simp] theorem State.writeStatus_cmdLatch (v : Word) : (s.writeStatus v).cmdLatch = s.cmdLatch := rfl
@[simp] theorem State.writeStatus_result (v : Word) : (s.writeStatus v).result = s.result := rfl
@[simp] theorem State.writeStatus_busy (v : Word) : (s.writeStatus v).busy = s.busy := rfl
@[simp] theorem State.writeStatus_seqCls (v : Word) : (s.writeStatus v).seqCls = s.seqCls := rfl
@[simp] theorem State.writeStatus_z0 (v : Word) : (s.writeStatus v).z0 = s.z0 := rfl
@[simp] theorem State.writeStatus_errs (v : Word) : (s.writeStatus v).errs = (s.errs && !v.getLsbD 8) := rfl
@[simp] theorem State.writeStatus_ovr (v : Word) : (s.writeStatus v).ovr = (s.ovr && !v.getLsbD 9) := rfl
@[simp] theorem State.writeStatus_crc (v : Word) : (s.writeStatus v).crc = s.crc := rfl
@[simp] theorem State.writeStatus_csum (v : Word) : (s.writeStatus v).csum = s.csum := rfl
@[simp] theorem State.writeStatus_expect (v : Word) : (s.writeStatus v).expect = s.expect := rfl
@[simp] theorem State.writeStatus_hdr (v : Word) : (s.writeStatus v).hdr = s.hdr := rfl
@[simp] theorem State.writeStatus_seq (v : Word) : (s.writeStatus v).seq = s.seq := rfl
@[simp] theorem State.writeStatus_plen (v : Word) : (s.writeStatus v).plen = s.plen := rfl
@[simp] theorem State.writeStatus_flen (v : Word) : (s.writeStatus v).flen = s.flen := rfl
@[simp] theorem State.writeStatus_ocnt (v : Word) : (s.writeStatus v).ocnt = s.ocnt := rfl
@[simp] theorem State.writeStatus_carry (v : Word) : (s.writeStatus v).carry = s.carry := rfl
@[simp] theorem State.writeStatus_mem (v : Word) : (s.writeStatus v).mem = s.mem := rfl
@[simp] theorem State.writeStatus_lat (v : Word) : (s.writeStatus v).lat = s.lat := rfl
@[simp] theorem State.writeStatus_inputs (v : Word) : (s.writeStatus v).inputs = s.inputs := rfl
@[simp] theorem State.writeStatus_response (v : Word) : (s.writeStatus v).response = s.response := rfl
@[simp] theorem State.writeStatus_fresh (v : Word) : (s.writeStatus v).fresh = s.fresh := rfl
@[simp] theorem State.writeStatus_bufSeed (v : Word) : (s.writeStatus v).bufSeed = s.bufSeed := rfl

/-! ## `State.issue`: a CMD write (10_state.md R36) -/

@[simp] theorem State.issue_variant (v : Word) : (s.issue v).variant = s.variant := rfl
@[simp] theorem State.issue_mode (v : Word) : (s.issue v).mode = s.mode := rfl
@[simp] theorem State.issue_conv (v : Word) : (s.issue v).conv = s.conv := rfl
@[simp] theorem State.issue_cmdLatch (v : Word) : (s.issue v).cmdLatch = v := rfl
@[simp] theorem State.issue_result (v : Word) : (s.issue v).result = s.result := rfl
@[simp] theorem State.issue_busy (v : Word) : (s.issue v).busy = true := rfl
@[simp] theorem State.issue_seqCls (v : Word) : (s.issue v).seqCls = s.seqCls := rfl
@[simp] theorem State.issue_z0 (v : Word) : (s.issue v).z0 = s.z0 := rfl
@[simp] theorem State.issue_errs (v : Word) : (s.issue v).errs = s.errs := rfl
@[simp] theorem State.issue_ovr (v : Word) : (s.issue v).ovr = s.ovr := rfl
@[simp] theorem State.issue_crc (v : Word) : (s.issue v).crc = s.crc := rfl
@[simp] theorem State.issue_csum (v : Word) : (s.issue v).csum = s.csum := rfl
@[simp] theorem State.issue_expect (v : Word) : (s.issue v).expect = s.expect := rfl
@[simp] theorem State.issue_hdr (v : Word) : (s.issue v).hdr = s.hdr := rfl
@[simp] theorem State.issue_seq (v : Word) : (s.issue v).seq = s.seq := rfl
@[simp] theorem State.issue_plen (v : Word) : (s.issue v).plen = s.plen := rfl
@[simp] theorem State.issue_flen (v : Word) : (s.issue v).flen = s.flen := rfl
@[simp] theorem State.issue_ocnt (v : Word) : (s.issue v).ocnt = s.ocnt := rfl
@[simp] theorem State.issue_carry (v : Word) : (s.issue v).carry = s.carry := rfl
@[simp] theorem State.issue_mem (v : Word) : (s.issue v).mem = s.mem := rfl
@[simp] theorem State.issue_lat (v : Word) : (s.issue v).lat = Config.extraSteps s.fresh := rfl
@[simp] theorem State.issue_inputs (v : Word) : (s.issue v).inputs = s.inputs := rfl
@[simp] theorem State.issue_response (v : Word) : (s.issue v).response = s.response := rfl
@[simp] theorem State.issue_fresh (v : Word) : (s.issue v).fresh = s.fresh + 1 := rfl
@[simp] theorem State.issue_bufSeed (v : Word) : (s.issue v).bufSeed = s.bufSeed := rfl

/-! ## `State.storeFrame`: storing a frame (42_block_codec.md R155) -/

@[simp] theorem State.storeFrame_variant (f : List Byte) : (s.storeFrame f).variant = s.variant := rfl
@[simp] theorem State.storeFrame_mode (f : List Byte) : (s.storeFrame f).mode = s.mode := rfl
@[simp] theorem State.storeFrame_conv (f : List Byte) : (s.storeFrame f).conv = s.conv := rfl
@[simp] theorem State.storeFrame_cmdLatch (f : List Byte) : (s.storeFrame f).cmdLatch = s.cmdLatch := rfl
@[simp] theorem State.storeFrame_result (f : List Byte) : (s.storeFrame f).result = s.result := rfl
@[simp] theorem State.storeFrame_busy (f : List Byte) : (s.storeFrame f).busy = s.busy := rfl
@[simp] theorem State.storeFrame_seqCls (f : List Byte) : (s.storeFrame f).seqCls = s.seqCls := rfl
@[simp] theorem State.storeFrame_z0 (f : List Byte) : (s.storeFrame f).z0 = s.z0 := rfl
@[simp] theorem State.storeFrame_errs (f : List Byte) : (s.storeFrame f).errs = s.errs := rfl
@[simp] theorem State.storeFrame_ovr (f : List Byte) : (s.storeFrame f).ovr = s.ovr := rfl
@[simp] theorem State.storeFrame_crc (f : List Byte) : (s.storeFrame f).crc = s.crc := rfl
@[simp] theorem State.storeFrame_csum (f : List Byte) : (s.storeFrame f).csum = s.csum := rfl
@[simp] theorem State.storeFrame_expect (f : List Byte) : (s.storeFrame f).expect = s.expect := rfl
@[simp] theorem State.storeFrame_hdr (f : List Byte) : (s.storeFrame f).hdr = s.hdr := rfl
@[simp] theorem State.storeFrame_seq (f : List Byte) : (s.storeFrame f).seq = s.seq := rfl
@[simp] theorem State.storeFrame_plen (f : List Byte) : (s.storeFrame f).plen = s.plen := rfl
@[simp] theorem State.storeFrame_flen (f : List Byte) : (s.storeFrame f).flen = BitVec.ofNat 11 f.length := rfl
@[simp] theorem State.storeFrame_ocnt (f : List Byte) : (s.storeFrame f).ocnt = s.ocnt := rfl
@[simp] theorem State.storeFrame_carry (f : List Byte) : (s.storeFrame f).carry = s.carry := rfl
@[simp] theorem State.storeFrame_mem (f : List Byte) : (s.storeFrame f).mem = s.mem.write fbufBase f := rfl
@[simp] theorem State.storeFrame_lat (f : List Byte) : (s.storeFrame f).lat = s.lat := rfl
@[simp] theorem State.storeFrame_inputs (f : List Byte) : (s.storeFrame f).inputs = s.inputs := rfl
@[simp] theorem State.storeFrame_response (f : List Byte) : (s.storeFrame f).response = s.response := rfl
@[simp] theorem State.storeFrame_fresh (f : List Byte) : (s.storeFrame f).fresh = s.fresh := rfl
@[simp] theorem State.storeFrame_bufSeed (f : List Byte) : (s.storeFrame f).bufSeed = s.bufSeed := rfl

/-! ## `State.acceptControl`: accepting a control frame (42_block_codec.md R157) -/

@[simp] theorem State.acceptControl_variant (h : Byte) : (s.acceptControl h).variant = s.variant := rfl
@[simp] theorem State.acceptControl_mode (h : Byte) : (s.acceptControl h).mode = s.mode := rfl
@[simp] theorem State.acceptControl_conv (h : Byte) : (s.acceptControl h).conv = s.conv := rfl
@[simp] theorem State.acceptControl_cmdLatch (h : Byte) : (s.acceptControl h).cmdLatch = s.cmdLatch := rfl
@[simp] theorem State.acceptControl_result (h : Byte) : (s.acceptControl h).result = s.result := rfl
@[simp] theorem State.acceptControl_busy (h : Byte) : (s.acceptControl h).busy = s.busy := rfl
@[simp] theorem State.acceptControl_seqCls (h : Byte) : (s.acceptControl h).seqCls = s.seqCls := rfl
@[simp] theorem State.acceptControl_z0 (h : Byte) : (s.acceptControl h).z0 = false := rfl
@[simp] theorem State.acceptControl_errs (h : Byte) : (s.acceptControl h).errs = s.errs := rfl
@[simp] theorem State.acceptControl_ovr (h : Byte) : (s.acceptControl h).ovr = s.ovr := rfl
@[simp] theorem State.acceptControl_crc (h : Byte) : (s.acceptControl h).crc = s.crc := rfl
@[simp] theorem State.acceptControl_csum (h : Byte) : (s.acceptControl h).csum = s.csum := rfl
@[simp] theorem State.acceptControl_expect (h : Byte) : (s.acceptControl h).expect = s.expect := rfl
@[simp] theorem State.acceptControl_hdr (h : Byte) : (s.acceptControl h).hdr = h := rfl
@[simp] theorem State.acceptControl_seq (h : Byte) : (s.acceptControl h).seq = s.seq := rfl
@[simp] theorem State.acceptControl_plen (h : Byte) : (s.acceptControl h).plen = s.plen := rfl
@[simp] theorem State.acceptControl_flen (h : Byte) : (s.acceptControl h).flen = s.flen := rfl
@[simp] theorem State.acceptControl_ocnt (h : Byte) : (s.acceptControl h).ocnt = s.ocnt := rfl
@[simp] theorem State.acceptControl_carry (h : Byte) : (s.acceptControl h).carry = s.carry := rfl
@[simp] theorem State.acceptControl_mem (h : Byte) : (s.acceptControl h).mem = s.mem := rfl
@[simp] theorem State.acceptControl_lat (h : Byte) : (s.acceptControl h).lat = s.lat := rfl
@[simp] theorem State.acceptControl_inputs (h : Byte) : (s.acceptControl h).inputs = s.inputs := rfl
@[simp] theorem State.acceptControl_response (h : Byte) : (s.acceptControl h).response = s.response := rfl
@[simp] theorem State.acceptControl_fresh (h : Byte) : (s.acceptControl h).fresh = s.fresh := rfl
@[simp] theorem State.acceptControl_bufSeed (h : Byte) : (s.acceptControl h).bufSeed = s.bufSeed := rfl

/-! ## `State.acceptData`: accepting a data frame (42_block_codec.md R157) -/

@[simp] theorem State.acceptData_variant (h q : Byte) (pay : List Byte) : (s.acceptData h q pay).variant = s.variant := rfl
@[simp] theorem State.acceptData_mode (h q : Byte) (pay : List Byte) : (s.acceptData h q pay).mode = s.mode := rfl
@[simp] theorem State.acceptData_conv (h q : Byte) (pay : List Byte) : (s.acceptData h q pay).conv = s.conv := rfl
@[simp] theorem State.acceptData_cmdLatch (h q : Byte) (pay : List Byte) : (s.acceptData h q pay).cmdLatch = s.cmdLatch := rfl
@[simp] theorem State.acceptData_result (h q : Byte) (pay : List Byte) : (s.acceptData h q pay).result = s.result := rfl
@[simp] theorem State.acceptData_busy (h q : Byte) (pay : List Byte) : (s.acceptData h q pay).busy = s.busy := rfl
@[simp] theorem State.acceptData_seqCls (h q : Byte) (pay : List Byte) : (s.acceptData h q pay).seqCls = s.seqCls := rfl
@[simp] theorem State.acceptData_z0 (h q : Byte) (pay : List Byte) : (s.acceptData h q pay).z0 = payloadZero pay := rfl
@[simp] theorem State.acceptData_errs (h q : Byte) (pay : List Byte) : (s.acceptData h q pay).errs = s.errs := rfl
@[simp] theorem State.acceptData_ovr (h q : Byte) (pay : List Byte) : (s.acceptData h q pay).ovr = s.ovr := rfl
@[simp] theorem State.acceptData_crc (h q : Byte) (pay : List Byte) : (s.acceptData h q pay).crc = s.crc := rfl
@[simp] theorem State.acceptData_csum (h q : Byte) (pay : List Byte) : (s.acceptData h q pay).csum = s.csum := rfl
@[simp] theorem State.acceptData_expect (h q : Byte) (pay : List Byte) : (s.acceptData h q pay).expect = s.expect := rfl
@[simp] theorem State.acceptData_hdr (h q : Byte) (pay : List Byte) : (s.acceptData h q pay).hdr = h := rfl
@[simp] theorem State.acceptData_seq (h q : Byte) (pay : List Byte) : (s.acceptData h q pay).seq = q := rfl
@[simp] theorem State.acceptData_plen (h q : Byte) (pay : List Byte) : (s.acceptData h q pay).plen = BitVec.ofNat 11 pay.length := rfl
@[simp] theorem State.acceptData_flen (h q : Byte) (pay : List Byte) : (s.acceptData h q pay).flen = s.flen := rfl
@[simp] theorem State.acceptData_ocnt (h q : Byte) (pay : List Byte) : (s.acceptData h q pay).ocnt = s.ocnt := rfl
@[simp] theorem State.acceptData_carry (h q : Byte) (pay : List Byte) : (s.acceptData h q pay).carry = s.carry := rfl
@[simp] theorem State.acceptData_mem (h q : Byte) (pay : List Byte) : (s.acceptData h q pay).mem = s.mem.write pbufBase pay := rfl
@[simp] theorem State.acceptData_lat (h q : Byte) (pay : List Byte) : (s.acceptData h q pay).lat = s.lat := rfl
@[simp] theorem State.acceptData_inputs (h q : Byte) (pay : List Byte) : (s.acceptData h q pay).inputs = s.inputs := rfl
@[simp] theorem State.acceptData_response (h q : Byte) (pay : List Byte) : (s.acceptData h q pay).response = s.response := rfl
@[simp] theorem State.acceptData_fresh (h q : Byte) (pay : List Byte) : (s.acceptData h q pay).fresh = s.fresh := rfl
@[simp] theorem State.acceptData_bufSeed (h q : Byte) (pay : List Byte) : (s.acceptData h q pay).bufSeed = s.bufSeed := rfl

/-! ## `State.storeOutput`: storing DELIVER's output (44_normalizer.md R202) -/

@[simp] theorem State.storeOutput_variant (r : List Byte × Option Byte) : (s.storeOutput r).variant = s.variant := rfl
@[simp] theorem State.storeOutput_mode (r : List Byte × Option Byte) : (s.storeOutput r).mode = s.mode := rfl
@[simp] theorem State.storeOutput_conv (r : List Byte × Option Byte) : (s.storeOutput r).conv = s.conv := rfl
@[simp] theorem State.storeOutput_cmdLatch (r : List Byte × Option Byte) : (s.storeOutput r).cmdLatch = s.cmdLatch := rfl
@[simp] theorem State.storeOutput_result (r : List Byte × Option Byte) : (s.storeOutput r).result = s.result := rfl
@[simp] theorem State.storeOutput_busy (r : List Byte × Option Byte) : (s.storeOutput r).busy = s.busy := rfl
@[simp] theorem State.storeOutput_seqCls (r : List Byte × Option Byte) : (s.storeOutput r).seqCls = s.seqCls := rfl
@[simp] theorem State.storeOutput_z0 (r : List Byte × Option Byte) : (s.storeOutput r).z0 = s.z0 := rfl
@[simp] theorem State.storeOutput_errs (r : List Byte × Option Byte) : (s.storeOutput r).errs = s.errs := rfl
@[simp] theorem State.storeOutput_ovr (r : List Byte × Option Byte) : (s.storeOutput r).ovr = s.ovr := rfl
@[simp] theorem State.storeOutput_crc (r : List Byte × Option Byte) : (s.storeOutput r).crc = s.crc := rfl
@[simp] theorem State.storeOutput_csum (r : List Byte × Option Byte) : (s.storeOutput r).csum = s.csum := rfl
@[simp] theorem State.storeOutput_expect (r : List Byte × Option Byte) : (s.storeOutput r).expect = s.expect := rfl
@[simp] theorem State.storeOutput_hdr (r : List Byte × Option Byte) : (s.storeOutput r).hdr = s.hdr := rfl
@[simp] theorem State.storeOutput_seq (r : List Byte × Option Byte) : (s.storeOutput r).seq = s.seq := rfl
@[simp] theorem State.storeOutput_plen (r : List Byte × Option Byte) : (s.storeOutput r).plen = s.plen := rfl
@[simp] theorem State.storeOutput_flen (r : List Byte × Option Byte) : (s.storeOutput r).flen = s.flen := rfl
@[simp] theorem State.storeOutput_ocnt (r : List Byte × Option Byte) : (s.storeOutput r).ocnt = BitVec.ofNat 12 r.1.length := rfl
@[simp] theorem State.storeOutput_carry (r : List Byte × Option Byte) : (s.storeOutput r).carry = r.2 := rfl
@[simp] theorem State.storeOutput_mem (r : List Byte × Option Byte) : (s.storeOutput r).mem = s.mem.write obufBase r.1 := rfl
@[simp] theorem State.storeOutput_lat (r : List Byte × Option Byte) : (s.storeOutput r).lat = s.lat := rfl
@[simp] theorem State.storeOutput_inputs (r : List Byte × Option Byte) : (s.storeOutput r).inputs = s.inputs := rfl
@[simp] theorem State.storeOutput_response (r : List Byte × Option Byte) : (s.storeOutput r).response = s.response := rfl
@[simp] theorem State.storeOutput_fresh (r : List Byte × Option Byte) : (s.storeOutput r).fresh = s.fresh := rfl
@[simp] theorem State.storeOutput_bufSeed (r : List Byte × Option Byte) : (s.storeOutput r).bufSeed = s.bufSeed := rfl

end Sys2Proof.Machine
end

