-- ==== Sys2Proof/Laws/Codec.lean ====
section
/-! SUPPORT. The laws of the framer and deframer: the lengths of a frame's parts and what each verdict of FRM_DECODE's checks
says of the frame (42_block_codec.md R150 to R158). -/

namespace Sys2Proof.Machine

@[simp] theorem trailer_length (v : Variant) (pay : List Byte) : (trailer v pay).length = trailerSize v := by
  cases v <;> rfl

theorem paddedPayload_length {h : Byte} {pad : Pad} {data : List Byte} (hd : data.length ≤ payloadSize h) :
    (paddedPayload h pad data).length = payloadSize h := by
  simp [paddedPayload]
  omega

theorem paddedPayload_getElem_data {h : Byte} {pad : Pad} {data : List Byte} {i : Nat} (hi : i < data.length)
    (hl : i < (paddedPayload h pad data).length) : (paddedPayload h pad data)[i] = data[i] :=
  List.getElem_append_left hi

theorem paddedPayload_getElem_pad {h : Byte} {pad : Pad} {data : List Byte} {i : Nat} (hi : data.length ≤ i)
    (hl : i < (paddedPayload h pad data).length) : (paddedPayload h pad data)[i] = padByte pad := by
  simp only [paddedPayload]
  rw [List.getElem_append_right hi, List.getElem_replicate]

@[simp] theorem dataFrame_length (v : Variant) (h sq : Byte) (pay : List Byte) :
    (dataFrame v h sq pay).length = 3 + pay.length + trailerSize v := by
  simp [dataFrame]
  omega

theorem payloadSize_le (h : Byte) : payloadSize h ≤ pbufSize := by
  unfold payloadSize pbufSize
  split <;> omega

theorem payloadSize_pos (h : Byte) : 0 < payloadSize h := by
  unfold payloadSize
  split <;> omega

theorem trailerSize_le (v : Variant) : trailerSize v ≤ 2 := by cases v <;> decide

/-- A frame fits FBUF (42_block_codec.md R152). -/
theorem frameLength_le (v : Variant) (h : Byte) : frameLength v h ≤ fbufSize := by
  have h1 := payloadSize_le h
  have h2 := trailerSize_le v
  unfold frameLength fbufSize
  unfold pbufSize at h1
  omega

/-- The checks on a data frame either report one of the two errors or give the frame's own fields. -/
theorem dataVerdict_cases (v : Variant) (h s k : Byte) (pay tr : List Byte) :
    (k ≠ 0xFF - s ∧ dataVerdict v h s k pay tr = .reject .complement) ∨
    (k = 0xFF - s ∧ tr ≠ trailer v pay ∧ dataVerdict v h s k pay tr = .reject .integrity) ∨
    (k = 0xFF - s ∧ tr = trailer v pay ∧ dataVerdict v h s k pay tr = .data h s pay) := by
  unfold dataVerdict
  split
  · exact .inl ⟨‹_›, rfl⟩
  · split
    · exact .inr (.inl ⟨by simp_all, ‹_›, rfl⟩)
    · exact .inr (.inr ⟨by simp_all, by simp_all, rfl⟩)

/-- What FRM_DECODE's checks can answer: one error, an accepted control frame, or the data frame's own fields after every
check has passed (42_block_codec.md R157). -/
theorem State.frameVerdict_cases (s : State) :
    (∃ c, c ≠ .ok ∧ s.frameVerdict = .reject c) ∨
    (s.flen.toNat = 1 ∧ isControl (s.fbufByte 0) = true ∧ s.frameVerdict = .control (s.fbufByte 0)) ∨
    (isDataHeader (s.fbufByte 0) = true ∧ headerLegal s.variant (s.fbufByte 0) = true ∧
      s.flen.toNat = frameLength s.variant (s.fbufByte 0) ∧ s.fbufByte 2 = 0xFF - s.fbufByte 1 ∧
      s.fbufBytes (3 + payloadSize (s.fbufByte 0)) (trailerSize s.variant) =
        trailer s.variant (s.fbufBytes 3 (payloadSize (s.fbufByte 0))) ∧
      s.frameVerdict = .data (s.fbufByte 0) (s.fbufByte 1) (s.fbufBytes 3 (payloadSize (s.fbufByte 0)))) := by
  simp only [State.frameVerdict]
  split
  · exact .inl ⟨_, by decide, rfl⟩
  · split
    · split
      · exact .inl ⟨_, by decide, rfl⟩
      · exact .inr (.inl ⟨by simp_all, ‹_›, rfl⟩)
    · split
      · exact .inl ⟨_, by decide, rfl⟩
      · split
        · exact .inl ⟨_, by decide, rfl⟩
        · split
          · exact .inl ⟨_, by decide, rfl⟩
          · rename_i h1 h2 h3 h4 h5
            rcases dataVerdict_cases s.variant (s.fbufByte 0) (s.fbufByte 1) (s.fbufByte 2)
              (s.fbufBytes 3 (payloadSize (s.fbufByte 0)))
              (s.fbufBytes (3 + payloadSize (s.fbufByte 0)) (trailerSize s.variant)) with h | h | h
            · exact .inl ⟨_, by decide, h.2⟩
            · exact .inl ⟨_, by decide, h.2.2⟩
            · exact .inr (.inr ⟨by simpa using h3, by simpa using h4, by simpa using h5, h.1, h.2.1, h.2.2⟩)

/-- The fields of a data frame that stands in FBUF (30_encoding.md R107). -/
theorem State.fbuf_dataFrame {t : State} {v : Variant} {h sq : Byte} {pay : List Byte}
    (hf : t.bytesAt fbufBase (dataFrame v h sq pay).length = dataFrame v h sq pay) :
    t.fbufByte 0 = h ∧ t.fbufByte 1 = sq ∧ t.fbufByte 2 = 0xFF - sq ∧ t.fbufBytes 3 pay.length = pay ∧
      t.fbufBytes (3 + pay.length) (trailerSize v) = trailer v pay := by
  have h1 := State.bytesAt_split (bs := [h, sq, 0xFF - sq] ++ pay) (cs := trailer v pay) hf
  have h2 := State.bytesAt_split (bs := [h, sq, 0xFF - sq]) (cs := pay) h1.1
  have h3 : [t.fbufByte 0, t.fbufByte 1, t.fbufByte 2] = [h, sq, 0xFF - sq] := h2.1
  simp only [List.cons.injEq, and_true] at h3
  refine ⟨h3.1, h3.2.1, h3.2.2, h2.2, ?_⟩
  have h4 := h1.2
  rw [trailer_length, List.length_append] at h4
  exact h4

/-- No control byte is a data header (42_block_codec.md R150, R154). -/
theorem isDataHeader_of_isControl : ∀ {h : Byte}, isControl h = true → isDataHeader h = false := by decide

/-- FRM_DECODE's verdict on a frame of a legal data header and the right length is that of the checks that follow
(42_block_codec.md R157). -/
theorem State.frameVerdict_data {s : State} (h1 : isDataHeader (s.fbufByte 0) = true)
    (h2 : headerLegal s.variant (s.fbufByte 0) = true) (h3 : s.flen.toNat = frameLength s.variant (s.fbufByte 0)) :
    s.frameVerdict =
      dataVerdict s.variant (s.fbufByte 0) (s.fbufByte 1) (s.fbufByte 2) (s.fbufBytes 3 (payloadSize (s.fbufByte 0)))
        (s.fbufBytes (3 + payloadSize (s.fbufByte 0)) (trailerSize s.variant)) := by
  have hc : isControl (s.fbufByte 0) = false := by
    rw [← Bool.not_eq_true]
    intro h
    rw [isDataHeader_of_isControl h] at h1
    cases h1
  have hp : ¬frameLength s.variant (s.fbufByte 0) = 0 := by
    unfold frameLength
    omega
  simp [State.frameVerdict, hc, h1, h2, h3, hp]

/-- The errors FRM_DECODE can report (42_block_codec.md R157). -/
theorem State.frameVerdict_reject {s : State} {c : ResultCode} (h : s.frameVerdict = .reject c) :
    c = .length ∨ c = .header ∨ c = .complement ∨ c = .integrity := by
  simp only [State.frameVerdict, dataVerdict] at h
  split_ifs at h <;> cases h <;> simp

/-- FLEN after a data frame is stored is its length (42_block_codec.md R152). -/
theorem State.storeFrame_flen_toNat (s : State) {f : List Byte} (h : f.length ≤ fbufSize) :
    (s.storeFrame f).flen.toNat = f.length := by
  unfold fbufSize at h
  exact (BitVec.toNat_ofNat ..).trans (Nat.mod_eq_of_lt (by omega))

end Sys2Proof.Machine
end

