-- ==== Sys2Proof/Laws/Normalizer.lean ====
section
/-! SUPPORT. The laws of the normalizer's functions: the output bound's weight (44_normalizer.md R205) and the run over a
joined input (44_normalizer.md R206). -/

namespace Sys2Proof.Machine

@[simp] theorem nrun_nil (p : DblLe) (c : Conv) (k : Option Byte) : nrun p c k [] = ([], k) := rfl

theorem nrun_cons (p : DblLe) (c : Conv) (k : Option Byte) (b : Byte) (bs : List Byte) :
    nrun p c k (b :: bs) =
      ((nstep p c k b).1 ++ (nrun p c (nstep p c k b).2 bs).1, (nrun p c (nstep p c k b).2 bs).2) := rfl

/-- The run over a joined input is the run over the first part, then the run over the second from the carry it leaves. -/
theorem nrun_append (p : DblLe) (c : Conv) (k : Option Byte) (xs ys : List Byte) :
    nrun p c k (xs ++ ys) =
      ((nrun p c k xs).1 ++ (nrun p c (nrun p c k xs).2 ys).1, (nrun p c (nrun p c k xs).2 ys).2) := by
  induction xs generalizing k with
  | nil => simp
  | cons b bs ih => simp [nrun_cons, ih]

/-- The bytes a carry may still give: two for a pending byte (44_normalizer.md R205). -/
def carryWeight (k : Option Byte) : Nat := if k.isSome then 2 else 0

theorem lineEnd_length_le (c : Conv) : (lineEnd c).length ≤ 2 := by cases c <;> decide

theorem doubleEnd_length_le (p : DblLe) (c : Conv) : (doubleEnd p c).length ≤ 4 := by cases p <;> cases c <;> decide

/-- One byte gives at most two bytes more than the carries' weights allow. -/
theorem nstep_weight (p : DblLe) (c : Conv) (k : Option Byte) (b : Byte) :
    (nstep p c k b).1.length + carryWeight (nstep p c k b).2 ≤ carryWeight k + 2 := by
  cases k with
  | none => simp [nstep, carryWeight]
  | some f =>
    have h1 := lineEnd_length_le c
    have h2 := doubleEnd_length_le p c
    simp only [nstep, pair]
    split <;> simp [carryWeight] <;> omega

/-- A run gives at most two bytes for each byte it consumes (44_normalizer.md R205). -/
theorem nrun_weight (p : DblLe) (c : Conv) (k : Option Byte) (bs : List Byte) :
    (nrun p c k bs).1.length + carryWeight (nrun p c k bs).2 ≤ carryWeight k + 2 * bs.length := by
  induction bs generalizing k with
  | nil => simp
  | cons b bs ih =>
    have h1 := nstep_weight p c k b
    have h2 := ih (nstep p c k b).2
    simp only [nrun_cons, List.length_append, List.length_cons]
    omega

/-- What an append can do: raise ERR_OVERFLOW, or append the output and take the new carry (44_normalizer.md R204). -/
theorem State.appendOutput_cases (s : State) (r : List Byte × Option Byte) :
    (s.ocnt.toNat + r.1.length > obufSize ∧ s.appendOutput r = s.raise .overflow) ∨
    (s.ocnt.toNat + r.1.length ≤ obufSize ∧
      s.appendOutput r =
        { s with
          mem := s.mem.write (obufBase + s.ocnt.toNat) r.1
          ocnt := BitVec.ofNat 12 (s.ocnt.toNat + r.1.length)
          carry := r.2 }.finishOk) := by
  unfold State.appendOutput
  split
  · exact .inl ⟨‹_›, rfl⟩
  · exact .inr ⟨by omega, rfl⟩

@[simp] theorem classOf_cr : classOf 0x0D#8 = .cr := rfl
@[simp] theorem classOf_lf : classOf 0x0A#8 = .lf := rfl
@[simp] theorem classOf_sub : classOf 0x1A#8 = .sub := rfl
@[simp] theorem classOf_subByte : classOf subByte = .sub := rfl

/-- A line end holds no SUB and no OTHER byte. -/
theorem mem_lineEnd (c : Conv) : ∀ b ∈ lineEnd c, b ≠ 0x1A ∧ classOf b ≠ .other := by cases c <;> decide

/-- Neither do two of them. -/
theorem mem_doubleEnd (p : DblLe) (c : Conv) : ∀ b ∈ doubleEnd p c, b ≠ 0x1A ∧ classOf b ≠ .other := by
  cases p <;> cases c <;> decide

/-- The run as a loop over the bytes that carries the output so far and the carry (44_normalizer.md R202). -/
theorem nrun_foldl (p : DblLe) (c : Conv) (acc : List Byte) (k : Option Byte) (bs : List Byte) :
    (acc ++ (nrun p c k bs).1, (nrun p c k bs).2) =
      bs.foldl (fun a b => (a.1 ++ (nstep p c a.2 b).1, (nstep p c a.2 b).2)) (acc, k) := by
  induction bs generalizing acc k with
  | nil => simp
  | cons b bs ih =>
    rw [List.foldl_cons, ← ih]
    simp [nrun_cons]

end Sys2Proof.Machine
end

