-- ==== Sys2Proof/Laws/Exec.lean ====
section
/-! SUPPORT. What a command can do, said once: it reports an error and changes nothing else, or it completes with pending
writes inside the registers and the one buffer it may write (00_scope.md R10). -/

namespace Sys2Proof.Machine

/-- The `n` bytes from `a` lie in one buffer. -/
def runInBuffer (a n : Nat) : Prop :=
  (pbufBase ≤ a ∧ a + n ≤ pbufBase + pbufSize) ∨ (fbufBase ≤ a ∧ a + n ≤ fbufBase + fbufSize) ∨
    (obufBase ≤ a ∧ a + n ≤ obufBase + obufSize)

theorem runInBuffer.inBuffer {a n x : Nat} (h : runInBuffer a n) (h1 : a ≤ x) (h2 : x < a + n) :
    inBuffer x = true := by
  unfold runInBuffer at h
  simp only [Machine.inBuffer, inRegion, Bool.or_eq_true, Bool.and_eq_true, decide_eq_true_eq]
  omega

/-- `p` agrees with `s` in every field that no command but through `finish` writes. -/
def keepsUnwritten (s p : State) : Prop :=
  { p with
    seqCls := s.seqCls
    z0 := s.z0
    crc := s.crc
    csum := s.csum
    expect := s.expect
    hdr := s.hdr
    seq := s.seq
    plen := s.plen
    flen := s.flen
    ocnt := s.ocnt
    carry := s.carry
    mem := s.mem } = s

/-- The pending writes of a command: no field that no command writes is changed, memory changes by at most one run inside one
buffer, and OCNT stays within OBUF. -/
structure PendingWrites (s p : State) : Prop where
  kept : keepsUnwritten s p
  mem : p.mem = s.mem ∨ ∃ a bs, p.mem = s.mem.write a bs ∧ runInBuffer a bs.length
  ocnt : p.ocnt.toNat ≤ s.ocnt.toNat ∨ p.ocnt.toNat ≤ obufSize

theorem PendingWrites.ofRegs {s p : State}
    (kept : keepsUnwritten s p)
    (hm : p.mem = s.mem) (ho : p.ocnt.toNat ≤ s.ocnt.toNat) : PendingWrites s p := ⟨kept, .inl hm, .inl ho⟩

/-- A frame that fits FBUF is a pending write. -/
theorem State.storeFrame_pending (s : State) {f : List Byte} (h : f.length ≤ fbufSize) :
    PendingWrites s (s.storeFrame f) :=
  ⟨rfl, .inr ⟨fbufBase, f, rfl, .inr (.inl ⟨le_rfl, by omega⟩)⟩, .inl le_rfl⟩

/-- An accepted payload that fits PBUF is a pending write. -/
theorem State.acceptData_pending (s : State) (h sq : Byte) {pay : List Byte} (hp : pay.length ≤ pbufSize) :
    PendingWrites s (s.acceptData h sq pay) :=
  ⟨rfl, .inr ⟨pbufBase, pay, rfl, .inl ⟨le_rfl, by omega⟩⟩, .inl le_rfl⟩

/-- DELIVER's output of at most OBUF_SIZE bytes is a pending write. -/
theorem State.storeOutput_pending (s : State) {r : List Byte × Option Byte} (h : r.1.length ≤ obufSize) :
    PendingWrites s (s.storeOutput r) := by
  refine ⟨rfl, .inr ⟨obufBase, r.1, rfl, .inr (.inr ⟨le_rfl, by omega⟩)⟩, .inr ?_⟩
  simp only [State.storeOutput_ocnt, BitVec.toNat_ofNat]
  exact (Nat.mod_le _ _).trans h

/-- DELIVER never has more output than OBUF holds (44_normalizer.md R205). -/
theorem State.deliverOutput_length {s : State} (h : s.plen.toNat ≤ pbufSize) : s.deliverOutput.1.length ≤ obufSize := by
  unfold State.deliverOutput
  split
  · simp only [State.pbufBytes, State.bytesAt_length]
    unfold pbufSize at h
    unfold obufSize
    omega
  · have hw := nrun_weight Config.dblLe s.conv s.carry (s.pbufBytes s.plen.toNat)
    have hc : carryWeight s.carry ≤ 2 := by
      unfold carryWeight
      split <;> omega
    simp only [State.pbufBytes, State.bytesAt_length] at hw ⊢
    unfold pbufSize at h
    unfold obufSize
    omega

/-- What a command can do: report an error, report ERR_SEQUENCE with SEQCLS = OOO, or complete with pending writes. -/
inductive ExecShape (i : Instr) (s : State) : Prop where
  | error {c : ResultCode} (h : exec i s = .next (s.raise c)) (hc : c ≠ .ok)
  | outOfOrder (h : exec i s = .next ({ s with seqCls := .ooo }.raise .sequence)) (hi : i = .seqCheck)
  | done {p : State} (h : exec i s = .next p.finishOk) (hp : PendingWrites s p)

theorem State.appendOutput_shape {i : Instr} {s : State} {r : List Byte × Option Byte}
    (h : exec i s = .next (s.appendOutput r)) : ExecShape i s := by
  rcases s.appendOutput_cases r with ⟨_, h2⟩ | ⟨h1, h2⟩
  · exact .error (h.trans (by rw [h2])) (by decide)
  · refine .done (h.trans (congrArg _ h2))
      ⟨rfl, .inr ⟨obufBase + s.ocnt.toNat, r.1, rfl, .inr (.inr ⟨by omega, by omega⟩)⟩, .inr ?_⟩
    simp only [BitVec.toNat_ofNat]
    exact (Nat.mod_le _ _).trans h1

/-- Every command does one of these three things (00_scope.md R10). -/
theorem exec_shape (i : Instr) (s : State) : ExecShape i s := by
  cases i with
  | nop => exact .done rfl (.ofRegs rfl rfl le_rfl)
  | sessInit e => exact .done rfl (.ofRegs rfl rfl (Nat.zero_le _))
  | crcInit => exact .done rfl (.ofRegs rfl rfl le_rfl)
  | crcByte b => exact .done rfl (.ofRegs rfl rfl le_rfl)
  | crcPbuf =>
    by_cases h : s.plen.toNat > pbufSize
    · exact .error (if_pos h) (by decide)
    · exact .done (if_neg h) (.ofRegs rfl rfl le_rfl)
  | csumInit => exact .done rfl (.ofRegs rfl rfl le_rfl)
  | csumByte b => exact .done rfl (.ofRegs rfl rfl le_rfl)
  | csumPbuf =>
    by_cases h : s.plen.toNat > pbufSize
    · exact .error (if_pos h) (by decide)
    · exact .done (if_neg h) (.ofRegs rfl rfl le_rfl)
  | frmEncode h sq pad =>
    by_cases h1 : isDataHeader h = true
    · by_cases h2 : headerLegal s.variant h = true
      · by_cases h3 : s.plen.toNat > payloadSize h
        · exact .error (c := .operand) (by simp [exec, execFrmEncode, h1, h2, h3]) (by decide)
        · refine .done (p := s.storeFrame (dataFrame s.variant h sq (paddedPayload h pad (s.pbufBytes s.plen.toNat))))
            (by simp [exec, execFrmEncode, h1, h2, h3]) (s.storeFrame_pending ?_)
          rw [dataFrame_length, paddedPayload_length (by simp [State.pbufBytes]; omega)]
          exact frameLength_le s.variant h
      · exact .error (c := .operand) (by simp [exec, execFrmEncode, h1, h2]) (by decide)
    · exact .error (c := .operand) (by simp [exec, execFrmEncode, h1]) (by decide)
  | frmCtrl c =>
    by_cases h : isControl c = true
    · exact .done (if_pos h) (s.storeFrame_pending (Nat.le_of_ble_eq_true rfl))
    · exact .error (if_neg h) (by decide)
  | frmDecode =>
    rcases s.frameVerdict_cases with ⟨c, hc, hv⟩ | ⟨_, _, hv⟩ | ⟨_, _, _, _, _, hv⟩
    · exact .error (c := c) (by simp [exec, execFrmDecode, hv]) hc
    · exact .done (p := s.acceptControl (s.fbufByte 0)) (by simp [exec, execFrmDecode, hv]) (.ofRegs rfl rfl le_rfl)
    · exact .done
        (p := s.acceptData (s.fbufByte 0) (s.fbufByte 1) (s.fbufBytes 3 (payloadSize (s.fbufByte 0))))
        (by simp [exec, execFrmDecode, hv])
        (s.acceptData_pending _ _ (by simpa [State.fbufBytes] using payloadSize_le _))
  | seqCheck =>
    cases h : classify s.seq s.expect with
    | none => exact .done (p := { s with seqCls := .none }) (by simp [exec, execSeqCheck, h]) (.ofRegs rfl rfl le_rfl)
    | new => exact .done (p := { s with seqCls := .new }) (by simp [exec, execSeqCheck, h]) (.ofRegs rfl rfl le_rfl)
    | dup => exact .done (p := { s with seqCls := .dup }) (by simp [exec, execSeqCheck, h]) (.ofRegs rfl rfl le_rfl)
    | ooo => exact .outOfOrder (by simp [exec, execSeqCheck, h]) rfl
  | seqAdvance => exact .done rfl (.ofRegs rfl rfl le_rfl)
  | normReset => exact .done rfl (.ofRegs rfl rfl le_rfl)
  | normByte b => exact State.appendOutput_shape (r := nstep Config.dblLe s.conv s.carry b) rfl
  | normFlush => exact State.appendOutput_shape (r := nflush Config.dblLe s.conv s.carry) rfl
  | deliver =>
    by_cases h : s.plen.toNat > pbufSize
    · exact .error (if_pos h) (by decide)
    · exact .done (if_neg h) (s.storeOutput_pending (State.deliverOutput_length (by omega)))
  | obufClear => exact .done rfl (.ofRegs rfl rfl (Nat.zero_le _))

/-- `s` with other values in the fields that no command reads: ERRS, OVR and the model's own fields of the schedule, the
responses and the draws. -/
def State.withAux (s : State) (e o : Bool) (l : Nat) (i : List Input) (r : Option Response) (f : Nat) : State :=
  { s with errs := e, ovr := o, lat := l, inputs := i, response := r, fresh := f }

theorem State.appendOutput_withAux (s : State) (e o : Bool) (l : Nat) (ins : List Input) (r : Option Response) (f : Nat)
    (out : List Byte × Option Byte) :
    (s.withAux e o l ins r f).appendOutput out =
      (s.appendOutput out).withAux (if (s.appendOutput out).result = .ok then e else true) o l ins r f := by
  rcases s.appendOutput_cases out with ⟨h1, h2⟩ | ⟨h1, h2⟩
  · rw [h2]; exact if_pos h1
  · rw [h2]; exact if_neg (Nat.not_lt.2 h1)

/-- No command reads those fields, and it writes ERRS only: set by a nonzero result. -/
theorem exec_withAux (i : Instr) (s : State) (e o : Bool) (l : Nat) (ins : List Input) (r : Option Response) (f : Nat) :
    ∃ t, exec i s = .next t ∧
      exec i (s.withAux e o l ins r f) = .next (t.withAux (if t.result = .ok then e else true) o l ins r f) := by
  have hraise : ∀ (j : Instr) (c : ResultCode), c ≠ .ok → exec j s = .next (s.raise c) →
      exec j (s.withAux e o l ins r f) = .next ((s.withAux e o l ins r f).raise c) → ∃ t, exec j s = .next t ∧
      exec j (s.withAux e o l ins r f) = .next (t.withAux (if t.result = .ok then e else true) o l ins r f) := by
    intro j c hc h1 h2
    refine ⟨_, h1, h2.trans ?_⟩
    rw [if_neg (by exact hc)]
    rfl
  cases i with
  | crcPbuf =>
    by_cases h : s.plen.toNat > pbufSize
    · exact hraise .crcPbuf .operand (by decide) (if_pos h) (if_pos h)
    · exact ⟨_, if_neg h, if_neg h⟩
  | csumPbuf =>
    by_cases h : s.plen.toNat > pbufSize
    · exact hraise .csumPbuf .operand (by decide) (if_pos h) (if_pos h)
    · exact ⟨_, if_neg h, if_neg h⟩
  | frmEncode h sq pad =>
    have hv : (s.withAux e o l ins r f).variant = s.variant := rfl
    have hp : (s.withAux e o l ins r f).plen = s.plen := rfl
    by_cases h1 : isDataHeader h = true
    · by_cases h2 : headerLegal s.variant h = true
      · by_cases h3 : s.plen.toNat > payloadSize h
        · exact hraise _ .operand (by decide) (by simp [exec, execFrmEncode, h1, h2, h3])
            (by simp [exec, execFrmEncode, h1, hv, hp, h2, h3])
        · exact ⟨(s.storeFrame (dataFrame s.variant h sq (paddedPayload h pad (s.pbufBytes s.plen.toNat)))).finishOk,
            by simp [exec, execFrmEncode, h1, h2, h3], by simp only [exec, execFrmEncode, h1, hv, hp, h2, h3]; rfl⟩
      · exact hraise _ .operand (by decide) (by simp [exec, execFrmEncode, h1, h2]) (by simp [exec, execFrmEncode, h1, hv, h2])
    · exact hraise _ .operand (by decide) (by simp [exec, execFrmEncode, h1]) (by simp [exec, execFrmEncode, h1])
  | frmCtrl c =>
    by_cases h : isControl c = true
    · exact ⟨_, if_pos h, if_pos h⟩
    · exact hraise _ .operand (by decide) (if_neg h) (if_neg h)
  | frmDecode =>
    have hv : (s.withAux e o l ins r f).frameVerdict = s.frameVerdict := rfl
    rcases s.frameVerdict_cases with ⟨c, hc, h⟩ | ⟨_, _, h⟩ | ⟨_, _, _, _, _, h⟩
    · exact hraise _ c hc (by simp [exec, execFrmDecode, h]) (by simp [exec, execFrmDecode, hv, h])
    · exact ⟨_, by simp [exec, execFrmDecode, h]; rfl, by simp [exec, execFrmDecode, hv, h]; rfl⟩
    · exact ⟨_, by simp [exec, execFrmDecode, h]; rfl, by simp [exec, execFrmDecode, hv, h]; rfl⟩
  | seqCheck =>
    cases h : classify s.seq s.expect <;>
      refine ⟨_, by simp only [exec, execSeqCheck, h]; rfl, ?_⟩ <;>
      (have h' : classify (s.withAux e o l ins r f).seq (s.withAux e o l ins r f).expect = _ := h
       simp only [exec, execSeqCheck, h']; rfl)
  | normByte b => exact ⟨_, rfl, congrArg _ (s.appendOutput_withAux e o l ins r f _)⟩
  | normFlush => exact ⟨_, rfl, congrArg _ (s.appendOutput_withAux e o l ins r f _)⟩
  | deliver =>
    by_cases h : s.plen.toNat > pbufSize
    · exact hraise .deliver .operand (by decide) (if_pos h) (if_pos h)
    · exact ⟨_, if_neg h, if_neg h⟩
  | _ => exact ⟨_, rfl, rfl⟩

/-- SEQ_CHECK on a NEW or DUP sequence byte (43_sequence.md R181). -/
theorem exec_seqCheck_done {s : State} {c : SeqCls} (h : classify s.seq s.expect = c) (hc : c ≠ .ooo) :
    exec .seqCheck s = .next { s with seqCls := c }.finishOk := by
  cases c <;> first | exact (hc rfl).elim | simp [exec, execSeqCheck, h]

/-- SEQ_CHECK on an OOO sequence byte (43_sequence.md R181). -/
theorem exec_seqCheck_ooo {s : State} (h : classify s.seq s.expect = .ooo) :
    exec .seqCheck s = .next ({ s with seqCls := .ooo }.raise .sequence) := by simp [exec, execSeqCheck, h]

end Sys2Proof.Machine
end

