-- ==== Sys2Proof/Laws/Step.lean ====
section
/-! SUPPORT. What a step can do, said once: complete the command in flight, take the oldest pending input, or nothing
(20_memory.md R85). -/

namespace Sys2Proof.Machine

/-- A due completion is the next step. -/
theorem step_due {s : State} (h : s.completionDue = true) : step s = complete s := by simp [step, h]

/-- The completion of a decoded command is that command. -/
theorem complete_command {s : State} {i : Instr} (h : decode s.cmdLatch = .command i) : complete s = exec i s := by
  simp [complete, h]

/-- The completion of an illegal word is ERR_ILLEGAL. -/
theorem complete_illegal {s : State} {r : Illegal} (h : decode s.cmdLatch = .illegal r) :
    complete s = .next (s.raise .illegal) := by
  simp [complete, h, State.completeIllegal]

/-- Where no completion is due, the oldest pending input is taken. -/
theorem step_input {s : State} {i : Input} {rest : List Input} (h : s.completionDue = false)
    (hi : s.inputs = i :: rest) : step s = .next (s.takeInput i rest) := by simp [step, h, hi]

/-- With no completion due and nothing pending, nothing changes. -/
theorem step_idle {s : State} (h : s.completionDue = false) (hi : s.inputs = []) : step s = .next s := by
  simp [step, h, hi]

/-- The three kinds of step. -/
theorem step_cases (s : State) :
    (s.completionDue = true ∧ step s = complete s) ∨
    (s.completionDue = false ∧ s.inputs = [] ∧ step s = .next s) ∨
    (∃ i rest, s.completionDue = false ∧ s.inputs = i :: rest ∧ step s = .next (s.takeInput i rest)) := by
  cases h : s.completionDue with
  | true => exact .inl ⟨rfl, step_due h⟩
  | false =>
    cases hi : s.inputs with
    | nil => exact .inr (.inl ⟨rfl, rfl, step_idle h hi⟩)
    | cons i rest => exact .inr (.inr ⟨i, rest, rfl, rfl, step_input h hi⟩)

/-- When a completion is due. -/
theorem completionDue_iff (s : State) : s.completionDue = true ↔ s.busy = true ∧ (s.lat = 0 ∨ s.inputs = []) := by
  simp [State.completionDue]

/-- A read leaves everything but the response and the draws (20_memory.md R82). -/
theorem State.hostRead_cases (s : State) (off : Offset) (w : Width) :
    (∃ r, s.hostRead off w = s.respond r) ∨ (∃ r, s.hostRead off w = { s with fresh := s.fresh + 1 }.respond r) := by
  have hr : ∀ r, (∃ x, s.readReg r = s.respond x) ∨ (∃ x, s.readReg r = { s with fresh := s.fresh + 1 }.respond x) := by
    intro r
    unfold State.readReg
    split
    · exact .inr ⟨_, rfl⟩
    · exact .inl ⟨_, rfl⟩
  have hb : ∀ a, (∃ x, s.readByte a = s.respond x) ∨ (∃ x, s.readByte a = { s with fresh := s.fresh + 1 }.respond x) := by
    intro a
    unfold State.readByte
    split
    · exact .inr ⟨_, rfl⟩
    · exact .inl ⟨_, rfl⟩
  unfold State.hostRead
  split
  · exact .inl ⟨_, rfl⟩
  · exact hr _
  · exact hb _
  · exact hb _
  · exact hb _

/-- A write is a bus error, a dropped write, or the target's own write (20_memory.md R74, R76, R77). -/
theorem State.hostWrite_cases (s : State) (off : Offset) (w : Width) (v : Word) :
    (targetOf off w = none ∧ s.hostWrite off w v = s.respond .busError) ∨
    (∃ t, targetOf off w = some t ∧ s.busy = true ∧ t ≠ .reg .status ∧
      s.hostWrite off w v = s.dropWrite.respond .okay) ∨
    (∃ t, targetOf off w = some t ∧ (s.busy = false ∨ t = .reg .status) ∧
      s.hostWrite off w v = (s.writeTarget off v t).respond .okay) := by
  unfold State.hostWrite
  split
  · exact .inl ⟨‹_›, rfl⟩
  · rename_i t ht
    by_cases hb : s.busy = true
    · by_cases hs : t = .reg .status
      · subst hs
        exact .inr (.inr ⟨_, ht, .inr rfl, by simp⟩)
      · exact .inr (.inl ⟨t, ht, hb, hs, by simp [hb, hs]⟩)
    · exact .inr (.inr ⟨t, ht, .inl (by simpa using hb), by simp [hb]⟩)

/-- Every command answers a next state with BUSY = 0 (30_encoding.md R102, 10_state.md R46). -/
theorem exec_next (i : Instr) (s : State) : ∃ t, exec i s = .next t ∧ t.busy = false := by
  rcases exec_shape i s with ⟨h, _⟩ | ⟨h, _⟩ | ⟨h, _⟩ <;> exact ⟨_, h, rfl⟩

/-- So does every completion. -/
theorem complete_next (s : State) : ∃ t, complete s = .next t ∧ t.busy = false := by
  cases h : decode s.cmdLatch with
  | command i => rw [complete_command h]; exact exec_next i s
  | illegal r => exact ⟨_, complete_illegal h, rfl⟩

/-- The completion reads none of the fields of `State.withAux` and writes ERRS only. -/
theorem complete_withAux (s : State) (e o : Bool) (l : Nat) (ins : List Input) (r : Option Response) (f : Nat) :
    ∃ t, complete s = .next t ∧
      complete (s.withAux e o l ins r f) = .next (t.withAux (if t.result = .ok then e else true) o l ins r f) := by
  have hl : (s.withAux e o l ins r f).cmdLatch = s.cmdLatch := rfl
  cases h : decode s.cmdLatch with
  | command i => rw [complete_command h, complete_command (hl ▸ h)]; exact exec_withAux i s e o l ins r f
  | illegal x => exact ⟨_, complete_illegal h, complete_illegal (hl ▸ h)⟩

/-! ## Runs -/

/-- A run of no steps. -/
theorem run_zero (s : State) : Host.Core.run core 0 s = .next s := rfl

/-- A run that starts with a step to `t` goes on from `t`. -/
theorem run_succ {s t : State} (k : Nat) (h : step s = .next t) :
    Host.Core.run core (k + 1) s = Host.Core.run core k t := by
  have e : core.step s = .next t := h
  simp only [Host.Core.run, e]

/-- A run of one step. -/
theorem run_one {s t : State} (h : step s = .next t) : Host.Core.run core 1 s = .next t := run_succ 0 h

/-- A run of two steps. -/
theorem run_two {s t u : State} (h1 : step s = .next t) (h2 : step t = .next u) : Host.Core.run core 2 s = .next u :=
  (run_succ 1 h1).trans (run_one h2)

/-- Two runs, one after the other. -/
theorem run_add {s t : State} {j : Nat} (k : Nat) (h : Host.Core.run core j s = .next t) :
    Host.Core.run core (j + k) s = Host.Core.run core k t := by
  induction j generalizing s with
  | zero =>
    cases h
    rw [Nat.zero_add]
  | succ j ih =>
    have e : core.step s = step s := rfl
    rw [Nat.succ_add]
    simp only [Host.Core.run] at h ⊢
    cases hs : core.step s with
    | next u =>
      rw [hs] at h
      exact ih h
    | fault r => rw [hs] at h; cases h
    | refused r => rw [hs] at h; cases h

end Sys2Proof.Machine
end

