-- ==== Sys2Proof/Laws/Access.lean ====
section
/-! SUPPORT. What each window offset reaches: the map of 20_memory.md R71 and 10_state.md R30 as the model looks it up,
against the numbers of 20_memory.md R71 to R73; and the fields of CFG and STATUS as the host reads them. -/

namespace Sys2Proof.Machine

/-- The register offsets are the multiples of 4 up to 0x30 (10_state.md R30). -/
theorem regAt_isSome (a : Nat) : (regAt a).isSome = decide (a ≤ 0x33 ∧ a % 4 = 0) := by
  by_cases h : a ≤ 0x33
  · have hf : ∀ b ≤ 0x33, (regAt b).isSome = decide (b ≤ 0x33 ∧ b % 4 = 0) := by decide
    exact hf a h
  · unfold regAt
    split <;> simp_all

/-- An 8-bit access reaches the buffer its offset lies in (20_memory.md R71, R73). -/
theorem targetOf_w8 (off : Offset) :
    targetOf off .w8 =
      if 0x400 ≤ off.toNat ∧ off.toNat ≤ 0x7FF then some .pbuf
      else if 0x800 ≤ off.toNat ∧ off.toNat ≤ 0xC04 then some .fbuf
      else if 0x1000 ≤ off.toNat ∧ off.toNat ≤ 0x1801 then some .obuf
      else none := by
  have h1 : inRegion pbufBase pbufSize off.toNat = decide (0x400 ≤ off.toNat ∧ off.toNat ≤ 0x7FF) := by
    rw [inRegion, ← Bool.decide_and]
    exact decide_eq_decide.2 (by unfold pbufBase pbufSize; omega)
  have h2 : inRegion fbufBase fbufSize off.toNat = decide (0x800 ≤ off.toNat ∧ off.toNat ≤ 0xC04) := by
    rw [inRegion, ← Bool.decide_and]
    exact decide_eq_decide.2 (by unfold fbufBase fbufSize; omega)
  have h3 : inRegion obufBase obufSize off.toNat = decide (0x1000 ≤ off.toNat ∧ off.toNat ≤ 0x1801) := by
    rw [inRegion, ← Bool.decide_and]
    exact decide_eq_decide.2 (by unfold obufBase obufSize; omega)
  simp only [targetOf, h1, h2, h3, decide_eq_true_eq]

/-- The legal accesses are those that reach something (20_memory.md R72, R73, R74). -/
theorem targetOf_isSome (off : Offset) (w : Width) : (targetOf off w).isSome = legalAt off.toNat w := by
  cases w with
  | w8 =>
    rw [targetOf_w8]
    unfold legalAt
    split_ifs <;> simp_all
  | w16 => rfl
  | other => rfl
  | w32 => rw [legalAt, ← regAt_isSome, targetOf, Option.isSome_map]

/-- An access of any number of bytes but 1, 2 and 4 has the width that is illegal everywhere (20_memory.md R72, R73). -/
theorem Width.ofBytes_other {n : Nat} (h1 : n ≠ 1) (h2 : n ≠ 2) (h4 : n ≠ 4) : Width.ofBytes n = .other := by
  simp [Width.ofBytes, h1, h2, h4]

/-- A read that reaches nothing is refused (20_memory.md R74). -/
theorem State.hostRead_refused (s : State) {off : Offset} {w : Width} (h : targetOf off w = none) :
    s.hostRead off w = s.respond .busError := by simp [State.hostRead, h]

/-- A write that reaches nothing is refused (20_memory.md R74). -/
theorem State.hostWrite_refused (s : State) {off : Offset} {w : Width} (h : targetOf off w = none) (v : Word) :
    s.hostWrite off w v = s.respond .busError := by simp [State.hostWrite, h]

/-- A read of a register that is exact while BUSY = 1 answers its value (20_memory.md R77). -/
theorem State.readReg_exact (s : State) {r : Reg} (h : r.exactWhileBusy = true) :
    s.readReg r = s.respond (.word (s.regWord r)) := by simp [State.readReg, h]

/-- A read of a register with BUSY = 0 answers its value (20_memory.md R76). -/
theorem State.readReg_idle {s : State} (h : s.busy = false) (r : Reg) : s.readReg r = s.respond (.word (s.regWord r)) := by
  simp [State.readReg, h]

/-- A read of any other register while BUSY = 1 answers a free value (20_memory.md R77). -/
theorem State.readReg_busy {s : State} (h : s.busy = true) {r : Reg} (hr : r.exactWhileBusy = false) :
    s.readReg r = { s with fresh := s.fresh + 1 }.respond (.word (Config.busyReadWord s.fresh)) := by
  simp [State.readReg, h, hr]

/-- A write with BUSY = 0 of a legal access is the target's write (20_memory.md R76). -/
theorem State.hostWrite_idle {s : State} (h : s.busy = false) {off : Offset} {w : Width} {t : Target}
    (ht : targetOf off w = some t) (v : Word) : s.hostWrite off w v = (s.writeTarget off v t).respond .okay := by
  simp [State.hostWrite, ht, h]

/-- A write while BUSY = 1 of a legal access other than one to STATUS is dropped (20_memory.md R77). -/
theorem State.hostWrite_dropped {s : State} (h : s.busy = true) {off : Offset} {w : Width} {t : Target}
    (ht : targetOf off w = some t) (hs : t ≠ .reg .status) (v : Word) :
    s.hostWrite off w v = s.dropWrite.respond .okay := by
  simp [State.hostWrite, ht, h, hs]

/-- A write to STATUS whatever BUSY is (10_state.md R35). -/
theorem State.hostWrite_status (s : State) (v : Word) :
    s.hostWrite statusOffset .w32 v = (s.writeStatus v).respond .okay := by
  have ht : targetOf statusOffset .w32 = some (.reg .status) := by decide
  simp [State.hostWrite, ht, State.writeTarget, State.writeReg]

/-- A read of STATUS whatever BUSY is (20_memory.md R77). -/
theorem State.hostRead_status (s : State) : s.hostRead statusOffset .w32 = s.respond (.word s.statusWord) := by
  have ht : targetOf statusOffset .w32 = some (.reg .status) := by decide
  simp only [State.hostRead, ht]
  exact s.readReg_exact rfl

/-- A POLL while BUSY = 1 reads STATUS and stays pending (30_encoding.md R111). -/
theorem State.takeInput_poll_busy {s : State} (h : s.busy = true) (rest : List Input) :
    s.takeInput .poll rest = (s.passAccess (.poll :: rest)).respond (.word s.statusWord) := by
  have e : (if s.busy then Input.poll :: rest else rest) = .poll :: rest := by simp [h]
  rw [State.takeInput, e]
  exact State.hostRead_status _

/-- A POLL with BUSY = 0 reads STATUS and is over (30_encoding.md R111). -/
theorem State.takeInput_poll_idle {s : State} (h : s.busy = false) (rest : List Input) :
    s.takeInput .poll rest = (s.passAccess rest).respond (.word s.statusWord) := by
  have e : (if s.busy then Input.poll :: rest else rest) = rest := by simp [h]
  rw [State.takeInput, e]
  exact State.hostRead_status _

/-- While BUSY = 1 an input other than a reset changes only the fields of `State.withAux`: it cannot reach what the command
in flight reads, and it takes one access off its latency (20_memory.md R77, 70_reset_and_hazards.md R280). -/
theorem State.takeInput_busy {s : State} (h : s.busy = true) {i : Input} (hi : i ≠ .reset) (rest : List Input) :
    ∃ e o ins r f, s.takeInput i rest = s.withAux e o (s.lat - 1) ins r f ∧ (∀ j ∈ ins, j ∈ i :: rest) := by
  have hrd : ∀ off w ins, ∃ r f, (s.passAccess ins).hostRead off w = s.withAux s.errs s.ovr (s.lat - 1) ins r f := by
    intro off w ins
    rcases (s.passAccess ins).hostRead_cases off w with ⟨r, h⟩ | ⟨r, h⟩ <;> exact ⟨_, _, h⟩
  have hwr : ∀ off w v ins, ∃ e o r, (s.passAccess ins).hostWrite off w v = s.withAux e o (s.lat - 1) ins r s.fresh := by
    intro off w v ins
    rcases (s.passAccess ins).hostWrite_cases off w v with ⟨_, h'⟩ | ⟨_, _, _, _, h'⟩ | ⟨_, _, hb, h'⟩
    · exact ⟨_, _, _, h'⟩
    · exact ⟨_, _, _, h'⟩
    · rcases hb with hb | hb
      · have : s.busy = false := hb
        simp [h] at this
      · subst hb; exact ⟨_, _, _, h'⟩
  cases i with
  | access a =>
    cases a with
    | read off w =>
      obtain ⟨r, f, e⟩ := hrd off w rest
      exact ⟨_, _, _, r, f, e, fun j hj => List.mem_cons_of_mem _ hj⟩
    | write8 off v =>
      obtain ⟨e, o, r, he⟩ := hwr off .w8 (v.setWidth 32) rest
      exact ⟨_, _, _, _, _, he, fun j hj => List.mem_cons_of_mem _ hj⟩
    | write16 off v =>
      obtain ⟨e, o, r, he⟩ := hwr off .w16 (v.setWidth 32) rest
      exact ⟨_, _, _, _, _, he, fun j hj => List.mem_cons_of_mem _ hj⟩
    | write32 off v =>
      obtain ⟨e, o, r, he⟩ := hwr off .w32 v rest
      exact ⟨_, _, _, _, _, he, fun j hj => List.mem_cons_of_mem _ hj⟩
    | writeOther off =>
      obtain ⟨e, o, r, he⟩ := hwr off .other 0 rest
      exact ⟨_, _, _, _, _, he, fun j hj => List.mem_cons_of_mem _ hj⟩
  | poll =>
    obtain ⟨r, f, e⟩ := hrd statusOffset .w32 (.poll :: rest)
    exact ⟨_, _, _, r, f, (by simp only [State.takeInput, h, if_true]; exact e), fun j hj => hj⟩
  | reset => exact (hi rfl).elim

/-- The offset of each register (10_state.md R30). -/
def Reg.offset : Reg → Offset
  | .id => 0x000
  | .cfg => 0x004
  | .cmd => 0x008
  | .status => 0x00C
  | .crc => 0x010
  | .csum => 0x014
  | .expect => 0x018
  | .hdr => 0x01C
  | .seq => 0x020
  | .plen => 0x024
  | .flen => 0x028
  | .ocnt => 0x02C
  | .nstate => 0x030

/-- A register is reached by a 32-bit access at its own offset and by no other (10_state.md R30, 20_memory.md R72). -/
theorem targetOf_reg {off : Offset} {w : Width} {r : Reg} :
    targetOf off w = some (.reg r) ↔ w = .w32 ∧ off = r.offset := by
  constructor
  · intro h
    cases w with
    | w16 => cases h
    | other => cases h
    | w8 =>
      rw [targetOf_w8] at h
      split_ifs at h <;> cases h
    | w32 =>
      refine ⟨rfl, ?_⟩
      have h' : regAt off.toNat = some r := by simpa [targetOf] using h
      unfold regAt at h'
      split at h' <;> cases h' <;> rename_i ho <;> exact BitVec.eq_of_toNat_eq ho
  · rintro ⟨rfl, rfl⟩
    cases r <;> decide

/-! ## The fields of CFG and STATUS as read (10_state.md R32, R34) -/

/-- The bits of STATUS, field by field (10_state.md R34). -/
theorem State.getLsbD_statusWord (s : State) (i : Nat) :
    s.statusWord.getLsbD i =
      if i < 4 then s.result.bits.getLsbD i else if i = 4 then s.busy
      else if i < 7 then s.seqCls.bits.getLsbD (i - 5) else if i = 7 then s.z0 else if i = 8 then s.errs
      else if i = 9 then s.ovr else false := by
  have e : s.statusWord.getLsbD i =
      BitVec.getLsbD (w := 22 + 1 + 1 + 1 + 2 + 1 + 4) (0#22 ++ BitVec.ofBool s.ovr ++ BitVec.ofBool s.errs ++
        BitVec.ofBool s.z0 ++ s.seqCls.bits ++ BitVec.ofBool s.busy ++ s.result.bits) i := rfl
  rw [e]
  simp only [BitVec.getLsbD_append, BitVec.getLsbD_ofBool, BitVec.getLsbD_zero]
  rcases lt_or_ge i 10 with h | h
  · interval_cases i <;> simp
  · simp [show ¬i < 4 by omega, show ¬i - 4 < 1 by omega, show ¬i - 4 - 1 < 2 by omega, show ¬i - 4 - 1 - 2 < 1 by omega,
      show ¬i - 4 - 1 - 2 - 1 < 1 by omega, show ¬i - 4 - 1 - 2 - 1 - 1 < 1 by omega, show i ≠ 4 by omega,
      show ¬i < 7 by omega, show i ≠ 7 by omega, show i ≠ 8 by omega, show i ≠ 9 by omega]

theorem State.statusWord_result (s : State) : s.statusWord.extractLsb' 0 4 = s.result.bits := by
  apply BitVec.eq_of_getLsbD_eq
  intro i hi
  simp [-BitVec.getLsbD_eq_getElem, s.getLsbD_statusWord, hi]

theorem State.statusWord_busy (s : State) : s.statusWord.getLsbD 4 = s.busy := s.getLsbD_statusWord 4

theorem State.statusWord_seqCls (s : State) : s.statusWord.extractLsb' 5 2 = s.seqCls.bits := by
  apply BitVec.eq_of_getLsbD_eq
  intro i hi
  simp [-BitVec.getLsbD_eq_getElem, s.getLsbD_statusWord, hi, show ¬5 + i < 4 by omega, show 5 + i ≠ 4 by omega,
    show 5 + i < 7 by omega]

theorem State.statusWord_z0 (s : State) : s.statusWord.getLsbD 7 = s.z0 := s.getLsbD_statusWord 7

theorem State.statusWord_errs (s : State) : s.statusWord.getLsbD 8 = s.errs := s.getLsbD_statusWord 8

theorem State.statusWord_ovr (s : State) : s.statusWord.getLsbD 9 = s.ovr := s.getLsbD_statusWord 9

theorem State.statusWord_reserved (s : State) : s.statusWord.extractLsb' 10 22 = 0 := by
  apply BitVec.eq_of_getLsbD_eq
  intro i hi
  simp [-BitVec.getLsbD_eq_getElem, s.getLsbD_statusWord, hi, show ¬10 + i < 4 by omega, show 10 + i ≠ 4 by omega,
    show ¬10 + i < 7 by omega, show 10 + i ≠ 7 by omega, show 10 + i ≠ 8 by omega, show 10 + i ≠ 9 by omega]

/-- CFG's fields as read, reserved bits 0 (10_state.md R32). -/
theorem State.cfgWord_fields (s : State) :
    s.cfgWord.extractLsb' 0 2 = s.variant.bits ∧ s.cfgWord.getLsbD 2 = s.mode.bit ∧
      s.cfgWord.getLsbD 3 = s.conv.bit ∧ s.cfgWord.extractLsb' 4 28 = 0 := by
  unfold State.cfgWord
  cases s.variant <;> cases s.mode <;> cases s.conv <;> decide

end Sys2Proof.Machine
end

