-- ==== Sys2Proof/Laws/Decode.lean ====
section
/-! SUPPORT. The fields of a command word, read back from the word built of them and the word rebuilt from them. -/

namespace Sys2Proof

/-- The bits of a command word, field by field (30_encoding.md R100). -/
theorem getLsbD_commandWord (o a b : Byte) (p : Bool) (i : Nat) :
    (commandWord o a b p).getLsbD i =
      if i < 8 then o.getLsbD i else if i < 16 then a.getLsbD (i - 8) else if i < 24 then b.getLsbD (i - 16)
      else if i = 24 then p else false := by
  have e : (commandWord o a b p).getLsbD i =
      BitVec.getLsbD (w := 7 + 1 + 8 + 8 + 8) (0#7 ++ BitVec.ofBool p ++ b ++ a ++ o) i := rfl
  rw [e]
  simp only [BitVec.getLsbD_append, BitVec.getLsbD_ofBool, BitVec.getLsbD_zero]
  by_cases h1 : i < 8
  · simp [h1]
  · by_cases h2 : i < 16
    · simp [h1, h2, show i - 8 < 8 by omega]
    · by_cases h3 : i < 24
      · simp [h1, h2, h3, show ¬i - 8 < 8 by omega, show i - 8 - 8 = i - 16 by omega, show i - 16 < 8 by omega]
      · by_cases h4 : i = 24
        · subst h4; simp
        · simp [h1, h2, h3, h4, show ¬i - 8 < 8 by omega, show ¬i - 8 - 8 < 8 by omega,
            show ¬i - 8 - 8 - 8 < 1 by omega]

@[simp] theorem fieldOpc_commandWord (o a b : Byte) (p : Bool) : fieldOpc (commandWord o a b p) = o := by
  apply BitVec.eq_of_getLsbD_eq
  intro i hi
  simp [fieldOpc, getLsbD_commandWord, hi]

@[simp] theorem fieldA_commandWord (o a b : Byte) (p : Bool) : fieldA (commandWord o a b p) = a := by
  apply BitVec.eq_of_getLsbD_eq
  intro i hi
  simp [fieldA, getLsbD_commandWord, hi, show 8 + i < 16 by omega]

@[simp] theorem fieldB_commandWord (o a b : Byte) (p : Bool) : fieldB (commandWord o a b p) = b := by
  apply BitVec.eq_of_getLsbD_eq
  intro i hi
  simp [fieldB, getLsbD_commandWord, hi, show ¬16 + i < 8 by omega, show 16 + i < 24 by omega]

@[simp] theorem fieldP_commandWord (o a b : Byte) (p : Bool) : fieldP (commandWord o a b p) = p := by
  rw [fieldP, getLsbD_commandWord]
  rfl

@[simp] theorem fieldRsv_commandWord (o a b : Byte) (p : Bool) : fieldRsv (commandWord o a b p) = 0 := by
  apply BitVec.eq_of_getLsbD_eq
  intro i hi
  simp [fieldRsv, getLsbD_commandWord, hi, show ¬25 + i < 8 by omega, show ¬25 + i < 16 by omega,
    show ¬25 + i < 24 by omega, show ¬25 + i = 24 by omega]

/-- A word is the word of its fields when RSV is zero. -/
theorem commandWord_fields {w : Word} (h : fieldRsv w = 0) :
    commandWord (fieldOpc w) (fieldA w) (fieldB w) (fieldP w) = w := by
  apply BitVec.eq_of_getLsbD_eq
  intro i hi
  have hr : 24 < i → w.getLsbD i = false := by
    intro h4
    have := congrArg (fun v : BitVec 7 => v.getLsbD (i - 25)) h
    simpa [fieldRsv, show i - 25 < 7 by omega, show 25 + (i - 25) = i by omega] using this
  rw [getLsbD_commandWord]
  by_cases h1 : i < 8
  · simp [h1, fieldOpc]
  · by_cases h2 : i < 16
    · simp [h1, h2, fieldA, show i - 8 < 8 by omega, show 8 + (i - 8) = i by omega]
    · by_cases h3 : i < 24
      · simp [h1, h2, h3, fieldB, show i - 16 < 8 by omega, show 16 + (i - 16) = i by omega]
      · by_cases h4 : i = 24
        · subst h4; simp [fieldP]
        · simp [h1, h2, h3, h4, hr (by omega)]

/-- A pad select from its bit. -/
@[simp] theorem padOfBit_padBit (p : Pad) : padOfBit (padBit p) = p := by cases p <;> rfl

@[simp] theorem padBit_padOfBit (p : Bool) : padBit (padOfBit p) = p := by cases p <;> rfl

/-- Two words with the same fields are equal. -/
theorem commandWord_inj {o a b o' a' b' : Byte} {p p' : Bool} :
    commandWord o a b p = commandWord o' a' b' p' ↔ o = o' ∧ a = a' ∧ b = b' ∧ p = p' := by
  refine ⟨fun h => ⟨?_, ?_, ?_, ?_⟩, fun ⟨h1, h2, h3, h4⟩ => by rw [h1, h2, h3, h4]⟩
  · simpa using congrArg fieldOpc h
  · simpa using congrArg fieldA h
  · simpa using congrArg fieldB h
  · simpa using congrArg fieldP h

/-- What the decoder accepts: the opcode has a row, RSV is zero and so is every field the row does not use (30_encoding.md
R112). -/
theorem decode_eq_command {w : Word} {i : Instr} :
    decode w = .command i ↔
      ∃ r, opMap (fieldOpc w) = some r ∧ fieldRsv w = 0 ∧ (r.usesA = false → fieldA w = 0) ∧
        (r.usesB = false → fieldB w = 0) ∧ (r.usesP = false → fieldP w = false) ∧
        r.build (fieldA w) (fieldB w) (fieldP w) = i := by
  unfold decode decodeRow
  cases opMap (fieldOpc w) with
  | none => simp
  | some r =>
    obtain ⟨ua, ub, up, f⟩ := r
    cases ua <;> cases ub <;> cases up <;> simp <;> split_ifs <;> simp_all

/-- Every word is a command or illegal (30_encoding.md R104). -/
theorem decode_total (w : Word) : (∃ i, decode w = .command i) ∨ (∃ r, decode w = .illegal r) := by
  cases h : decode w with
  | command i => exact .inl ⟨i, rfl⟩
  | illegal r => exact .inr ⟨r, rfl⟩

/-- The 18 opcodes of 30_encoding.md R102. -/
def listedOpcodes : List Byte :=
  [0x00, 0x01, 0x10, 0x11, 0x12, 0x18, 0x19, 0x1A, 0x20, 0x21, 0x22, 0x28, 0x29, 0x30, 0x31, 0x32, 0x33, 0x34]

/-- An opcode that has a row is one of them. -/
theorem opMap_listed : ∀ o : Byte, (opMap o).isSome = true → o ∈ listedOpcodes := by decide +kernel

/-- A word with B = P = 0 from its opcode and its operand (30_encoding.md R102). -/
theorem commandWord_or_byte (o b : Byte) : commandWord o 0 0 false ||| (b.setWidth 32 <<< 8) = commandWord o b 0 false := by
  apply BitVec.eq_of_getLsbD_eq
  intro i hi
  rw [BitVec.getLsbD_or, getLsbD_commandWord, getLsbD_commandWord]
  simp only [BitVec.getLsbD_shiftLeft, BitVec.getLsbD_setWidth, hi]
  by_cases h1 : i < 8
  · simp [h1]
  · by_cases h2 : i < 16
    · simp [h1, h2, show i - 8 < 32 by omega]
    · simp [h1, h2, BitVec.getLsbD_of_ge b (i - 8) (by omega)]

/-! The fields of a masked word are the masked fields. -/

theorem fieldOpc_and (v w : Word) : fieldOpc (v &&& w) = fieldOpc v &&& fieldOpc w := BitVec.extractLsb'_and ..
theorem fieldA_and (v w : Word) : fieldA (v &&& w) = fieldA v &&& fieldA w := BitVec.extractLsb'_and ..
theorem fieldB_and (v w : Word) : fieldB (v &&& w) = fieldB v &&& fieldB w := BitVec.extractLsb'_and ..
theorem fieldP_and (v w : Word) : fieldP (v &&& w) = (fieldP v && fieldP w) := by simp [fieldP]
theorem fieldRsv_and (v w : Word) : fieldRsv (v &&& w) = fieldRsv v &&& fieldRsv w := BitVec.extractLsb'_and ..

/-- The row's mask holds the opcode, RSV and exactly the fields its command does not use, and its match is zero outside the
opcode (30_encoding.md R103). -/
def rowAgrees (r : OpcodeRow) : Bool :=
  match opMap (fieldOpc r.mtch) with
  | none => false
  | some m =>
    fieldOpc r.mask == 0xFF && fieldRsv r.mask == 0x7F && fieldRsv r.mtch == 0 &&
      fieldA r.mask == (if m.usesA then 0 else 0xFF) && fieldA r.mtch == 0 &&
      fieldB r.mask == (if m.usesB then 0 else 0xFF) && fieldB r.mtch == 0 &&
      fieldP r.mask == !m.usesP && fieldP r.mtch == false

/-- The opcode table and the opcode map say the same of every row. -/
theorem opcodeRows_agree : ∀ r ∈ opcodeRows, rowAgrees r = true := by decide

end Sys2Proof
end

