-- ==== Sys2Proof/Laws/PerInstr.lean ====
section
/-! SUPPORT. Facts of every command as syntax, one lemma per constructor. -/

namespace Sys2Proof.Laws.RowMatch

open Sys2Proof

/-- The command's word is one of the row of spec/opcode_table.json that the command's mnemonic names (30_encoding.md
R103). -/
def mnemonicOf : Instr → String
  | .nop => "NOP"
  | .sessInit _ => "SESS_INIT"
  | .crcInit => "CRC_INIT"
  | .crcByte _ => "CRC_BYTE"
  | .crcPbuf => "CRC_PBUF"
  | .csumInit => "CSUM_INIT"
  | .csumByte _ => "CSUM_BYTE"
  | .csumPbuf => "CSUM_PBUF"
  | .frmEncode _ _ _ => "FRM_ENCODE"
  | .frmCtrl _ => "FRM_CTRL"
  | .frmDecode => "FRM_DECODE"
  | .seqCheck => "SEQ_CHECK"
  | .seqAdvance => "SEQ_ADVANCE"
  | .normReset => "NORM_RESET"
  | .normByte _ => "NORM_BYTE"
  | .normFlush => "NORM_FLUSH"
  | .deliver => "DELIVER"
  | .obufClear => "OBUF_CLEAR"

/-- The rows that cover the command's word are exactly the one of its mnemonic. -/
def Statement (i : Instr) : Prop :=
  (opcodeRows.filter fun r => r.covers (encode i)).map (·.mnemonic) = [mnemonicOf i]

theorem nop : Statement .nop := by unfold Statement; decide
theorem crcInit : Statement .crcInit := by unfold Statement; decide
theorem crcPbuf : Statement .crcPbuf := by unfold Statement; decide
theorem csumInit : Statement .csumInit := by unfold Statement; decide
theorem csumPbuf : Statement .csumPbuf := by unfold Statement; decide
theorem frmDecode : Statement .frmDecode := by unfold Statement; decide
theorem seqCheck : Statement .seqCheck := by unfold Statement; decide
theorem seqAdvance : Statement .seqAdvance := by unfold Statement; decide
theorem normReset : Statement .normReset := by unfold Statement; decide
theorem normFlush : Statement .normFlush := by unfold Statement; decide
theorem deliver : Statement .deliver := by unfold Statement; decide
theorem obufClear : Statement .obufClear := by unfold Statement; decide

/-! The words of a command with one byte operand, by computation over the byte. -/

theorem sessInit : ∀ e, Statement (.sessInit e) := by unfold Statement; decide +kernel
theorem crcByte : ∀ b, Statement (.crcByte b) := by unfold Statement; decide +kernel
theorem csumByte : ∀ b, Statement (.csumByte b) := by unfold Statement; decide +kernel
theorem frmCtrl : ∀ c, Statement (.frmCtrl c) := by unfold Statement; decide +kernel
theorem normByte : ∀ b, Statement (.normByte b) := by unfold Statement; decide +kernel

/-- A row of another opcode does not cover a word (every mask of the table holds the whole opcode field). -/
theorem covers_eq_false {r : OpcodeRow} {w : Word} (hm : fieldOpc r.mask = 0xFF) (h : fieldOpc w ≠ fieldOpc r.mtch) :
    r.covers w = false := by
  refine beq_eq_false_iff_ne.2 fun e => h ?_
  rw [← e]
  apply BitVec.eq_of_getLsbD_eq
  intro i hi
  have hb : r.mask.getLsbD i = true := by
    have e1 : (fieldOpc r.mask).getLsbD i = true := by
      rw [hm]
      revert i
      decide
    simpa [fieldOpc, hi] using e1
  simp [fieldOpc, hi, hb]

/-- FRM_ENCODE's row covers every word of FRM_ENCODE, whatever its operands. -/
theorem covers_frmEncode (h sq : Byte) (p : Bool) :
    commandWord 0x20 h sq p &&& 0xFE0000FF#32 = 0x00000020#32 := by
  apply BitVec.eq_of_getLsbD_eq
  intro i hi
  have hm : ∀ j, j < 32 → (0xFE0000FF#32).getLsbD j = (decide (j < 8) || decide (24 < j)) := by decide
  have hv : ∀ j, j < 32 → (0x00000020#32).getLsbD j = (decide (j < 8) && (0x20#8).getLsbD j) := by decide
  rw [BitVec.getLsbD_and, hm i hi, hv i hi, getLsbD_commandWord]
  by_cases h1 : i < 8
  · simp [h1]
  · by_cases h4 : 24 < i
    · simp [h1, show ¬i < 16 by omega, show ¬i < 24 by omega, show ¬i = 24 by omega]
    · simp [h1, h4]

theorem frmEncode (h sq : Byte) (pad : Pad) : Statement (.frmEncode h sq pad) := by
  have hc : ∀ r ∈ opcodeRows, r.covers (encode (.frmEncode h sq pad)) = (r.mnemonic == "FRM_ENCODE") := by
    have hs : ∀ r ∈ opcodeRows, fieldOpc r.mask = 0xFF ∧
        (fieldOpc r.mtch = 0x20 → r = ⟨"FRM_ENCODE", 0x00000020#32, 0xFE0000FF#32⟩) ∧
        (r.mnemonic = "FRM_ENCODE" → fieldOpc r.mtch = 0x20) := by decide
    intro r hr
    obtain ⟨h1, h2, h3⟩ := hs r hr
    by_cases ho : fieldOpc r.mtch = 0x20
    · rw [h2 ho]
      exact beq_iff_eq.2 (covers_frmEncode h sq (padBit pad))
    · rw [covers_eq_false h1 (by simpa [encode] using fun e => ho e.symm)]
      exact (beq_eq_false_iff_ne.2 fun e => ho (h3 e)).symm
  unfold Statement
  rw [List.filter_congr hc]
  rfl

/-- The word of every command is legal. -/
theorem legalWord_encode (i : Instr) : legalWord (encode i) = true := by
  have h : Statement i := by
    cases i with
    | nop => exact nop
    | sessInit e => exact sessInit e
    | crcInit => exact crcInit
    | crcByte b => exact crcByte b
    | crcPbuf => exact crcPbuf
    | csumInit => exact csumInit
    | csumByte b => exact csumByte b
    | csumPbuf => exact csumPbuf
    | frmEncode h sq pad => exact frmEncode h sq pad
    | frmCtrl c => exact frmCtrl c
    | frmDecode => exact frmDecode
    | seqCheck => exact seqCheck
    | seqAdvance => exact seqAdvance
    | normReset => exact normReset
    | normByte b => exact normByte b
    | normFlush => exact normFlush
    | deliver => exact deliver
    | obufClear => exact obufClear
  unfold Statement at h
  rw [legalWord, List.any_eq_true]
  cases e : opcodeRows.filter fun r => r.covers (encode i) with
  | nil =>
    rw [e] at h
    cases h
  | cons r rs =>
    have hr : r ∈ opcodeRows.filter fun r => r.covers (encode i) := by simp [e]
    exact ⟨r, List.mem_filter.1 hr⟩

end Sys2Proof.Laws.RowMatch
end

