-- ==== Sys2Proof/Tests/Slice0.lean ====
section
/-! SUPPORT. Tests: the smoke test of legal words, a word of every command written out field by field (30_encoding.md R100,
R102), small one-step tests whose expected values are those of 95_test_vectors.md, and for each statement that has hypotheses
a state that meets them. -/

namespace Sys2Proof.Tests

open Sys2Proof Sys2Proof.Machine Sys2Proof.Claims

/-! ## Legal words (30_encoding.md R103): one illegal word for each check -/

theorem test_legal_nop : legalWord 0x00000000 = true := by decide
theorem test_legal_all_operands : legalWord 0x01FFFF20 = true := by decide
theorem test_illegal_unknown_opcode : legalWord 0x00000002 = false := by decide
theorem test_illegal_operandA : legalWord 0x00000100 = false := by decide
theorem test_illegal_operandB : legalWord 0x00013111 = false := by decide
theorem test_illegal_operandP : legalWord 0x01000019 = false := by decide
theorem test_illegal_reserved : legalWord 0x02000020 = false := by decide

/-! ## Words written out: RSV, P, B, A, OPC (30_encoding.md R100, R102) -/

theorem test_word_nop : decode (0b0000000#7 ++ 0b0#1 ++ 0b00000000#8 ++ 0b00000000#8 ++ 0b00000000#8) = .command .nop := by
  decide
theorem test_word_sessInit :
    decode (0b0000000#7 ++ 0b0#1 ++ 0b00000000#8 ++ 0b00000001#8 ++ 0b00000001#8) = .command (.sessInit 0x01) := by decide
theorem test_word_crcInit :
    decode (0b0000000#7 ++ 0b0#1 ++ 0b00000000#8 ++ 0b00000000#8 ++ 0b00010000#8) = .command .crcInit := by decide
theorem test_word_crcByte :
    decode (0b0000000#7 ++ 0b0#1 ++ 0b00000000#8 ++ 0b00110001#8 ++ 0b00010001#8) = .command (.crcByte 0x31) := by decide
theorem test_word_crcPbuf :
    decode (0b0000000#7 ++ 0b0#1 ++ 0b00000000#8 ++ 0b00000000#8 ++ 0b00010010#8) = .command .crcPbuf := by decide
theorem test_word_csumInit :
    decode (0b0000000#7 ++ 0b0#1 ++ 0b00000000#8 ++ 0b00000000#8 ++ 0b00011000#8) = .command .csumInit := by decide
theorem test_word_csumByte :
    decode (0b0000000#7 ++ 0b0#1 ++ 0b00000000#8 ++ 0b00100000#8 ++ 0b00011001#8) = .command (.csumByte 0x20) := by decide
theorem test_word_csumPbuf :
    decode (0b0000000#7 ++ 0b0#1 ++ 0b00000000#8 ++ 0b00000000#8 ++ 0b00011010#8) = .command .csumPbuf := by decide
theorem test_word_frmEncode :
    decode (0b0000000#7 ++ 0b1#1 ++ 0b00000011#8 ++ 0b00000001#8 ++ 0b00100000#8) =
      .command (.frmEncode 0x01 0x03 .nul) := by decide
theorem test_word_frmCtrl :
    decode (0b0000000#7 ++ 0b0#1 ++ 0b00000000#8 ++ 0b00011000#8 ++ 0b00100001#8) = .command (.frmCtrl 0x18) := by decide
theorem test_word_frmDecode :
    decode (0b0000000#7 ++ 0b0#1 ++ 0b00000000#8 ++ 0b00000000#8 ++ 0b00100010#8) = .command .frmDecode := by decide
theorem test_word_seqCheck :
    decode (0b0000000#7 ++ 0b0#1 ++ 0b00000000#8 ++ 0b00000000#8 ++ 0b00101000#8) = .command .seqCheck := by decide
theorem test_word_seqAdvance :
    decode (0b0000000#7 ++ 0b0#1 ++ 0b00000000#8 ++ 0b00000000#8 ++ 0b00101001#8) = .command .seqAdvance := by decide
theorem test_word_normReset :
    decode (0b0000000#7 ++ 0b0#1 ++ 0b00000000#8 ++ 0b00000000#8 ++ 0b00110000#8) = .command .normReset := by decide
theorem test_word_normByte :
    decode (0b0000000#7 ++ 0b0#1 ++ 0b00000000#8 ++ 0b00001010#8 ++ 0b00110001#8) = .command (.normByte 0x0A) := by decide
theorem test_word_normFlush :
    decode (0b0000000#7 ++ 0b0#1 ++ 0b00000000#8 ++ 0b00000000#8 ++ 0b00110010#8) = .command .normFlush := by decide
theorem test_word_deliver :
    decode (0b0000000#7 ++ 0b0#1 ++ 0b00000000#8 ++ 0b00000000#8 ++ 0b00110011#8) = .command .deliver := by decide
theorem test_word_obufClear :
    decode (0b0000000#7 ++ 0b0#1 ++ 0b00000000#8 ++ 0b00000000#8 ++ 0b00110100#8) = .command .obufClear := by decide

/-- The reasons of 30_encoding.md R112, in its order (95_test_vectors.md V-Y5, V-Y6, V-Y4, V-C25, V-K13). -/
theorem test_word_illegal :
    decode 0x00000035 = .illegal .unknownOpcode ∧ decode 0x80000000 = .illegal .reservedBits ∧
      decode 0x00000100 = .illegal .operandA ∧ decode 0x00013111 = .illegal .operandB ∧
      decode 0x01000019 = .illegal .operandP := by decide

theorem test_tableWord : decodeTableWord 32 0x00020120 = some (.frmEncode 0x01 0x02 .sub) := by decide
theorem test_tableWord_too_long : decodeTableWord 40 0x100000000 = none := by decide

/-! ## One step on small states -/

/-- The command answers a next state that passes the test. -/
def after (i : Instr) (s : State) (p : State → Bool) : Bool :=
  match exec i s with
  | .next t => p t
  | .fault _ => false
  | .refused _ => false

/-- One step answers a next state that passes the test. -/
def stepped (s : State) (p : State → Bool) : Bool :=
  match step s with
  | .next t => p t
  | .fault _ => false
  | .refused _ => false

/-- "DATA" of 95_test_vectors.md. -/
def dataBytes : List Byte := [0x44, 0x41, 0x54, 0x41]

/-- The reset state with bytes in PBUF and PLEN = their number. -/
def withPbuf (bs : List Byte) : State :=
  { State.reset with mem := Memory.cells pbufBase bs, plen := BitVec.ofNat 11 bs.length }

/-- The reset state with a frame in FBUF and FLEN = its length. -/
def withFbuf (v : Variant) (bs : List Byte) : State :=
  { State.reset with variant := v, mem := Memory.cells fbufBase bs, flen := BitVec.ofNat 11 bs.length }

/-- The reset state with a pending byte. -/
def withCarry (c : Conv) (b : Byte) (n : BitVec 12) : State := { State.reset with conv := c, carry := some b, ocnt := n }

/-- F1 of 95_test_vectors.md with the sequence byte, its complement and the last byte given. -/
def frame1 (sq k last : Byte) : List Byte :=
  [0x01, sq, k] ++ dataBytes ++ List.replicate 124 0x1A ++ [0x35, last]

/-- V-C8 as the first step after reset, through the command word. -/
theorem test_fetch_crcByte : stepped (State.reset.withFetchWord 32 0x00004111) (fun t => t.crc == 0x58E5 && !t.busy) := by
  decide

/-- V-Y8: the illegal word comes before FRM_DECODE's own checks. -/
theorem test_fetch_illegal :
    stepped (State.reset.withFetchWord 32 0x00010022) (fun t => t.result == .illegal && t.errs && !t.busy) := by decide

/-- V-Y1. -/
theorem test_nop_keeps_errs :
    after .nop { State.reset with result := .integrity, errs := true } (fun t => t.result == .ok && t.errs) := by decide

/-- V-Y2. -/
theorem test_sessInit :
    after (.sessInit 1)
      { State.reset with
        expect := 0x37
        carry := some 0x0D
        ocnt := 12
        seqCls := .dup
        crc := 0x31C3
        csum := 0xDD
        hdr := 0x01
        seq := 0x05
        z0 := true
        plen := 128
        errs := true }
      (fun t => t == { State.reset with plen := 128, errs := true }) := by decide

/-- V-C24. -/
theorem test_crcInit : after .crcInit { State.reset with crc := 0x1234 } (fun t => t.crc == 0x0000) := by decide

/-- V-C3. -/
theorem test_crcByte_high_bit : after (.crcByte 0x80) State.reset (fun t => t.crc == 0x9188) := by decide

/-- V-C9. -/
theorem test_crcByte_from_ones :
    after (.crcByte 0x00) { State.reset with crc := 0xFFFF } (fun t => t.crc == 0xE1F0) := by decide

/-- V-C14. -/
theorem test_crcPbuf : after .crcPbuf (withPbuf dataBytes) (fun t => t.crc == 0x146E) := by decide +kernel

/-- V-C23. -/
theorem test_crcPbuf_too_long :
    after .crcPbuf { State.reset with plen := 1025, crc := 0x1234 }
      (fun t => t.result == .operand && t.errs && t.crc == 0x1234) := by decide

/-- V-K12. -/
theorem test_csumInit : after .csumInit { State.reset with csum := 0x55 } (fun t => t.csum == 0x00) := by decide

/-- V-K1. -/
theorem test_csumByte_wraps : after (.csumByte 0x20) { State.reset with csum := 0xF0 } (fun t => t.csum == 0x10) := by decide

/-- V-K5. -/
theorem test_csumPbuf : after .csumPbuf (withPbuf dataBytes) (fun t => t.csum == 0x1A) := by decide

/-- V-K11. -/
theorem test_csumPbuf_too_long :
    after .csumPbuf { State.reset with plen := 2047, csum := 0x55 } (fun t => t.result == .operand && t.csum == 0x55) := by
  decide

set_option maxRecDepth 100000 in
/-- V-F2. -/
theorem test_frmEncode :
    after (.frmEncode 0x01 0x01 .sub) (withPbuf dataBytes)
      (fun t => t.flen == 133 && t.fbufBytes 0 7 == [0x01, 0x01, 0xFE, 0x44, 0x41, 0x54, 0x41] &&
        t.fbufBytes 130 3 == [0x1A, 0x35, 0x4A]) := by decide +kernel

/-- V-F6. -/
theorem test_frmEncode_stx_needs_1k :
    after (.frmEncode 0x02 0x01 .sub) { State.reset with flen := 7 }
      (fun t => t.result == .operand && t.flen == 7 && t.mem == []) := by decide

/-- V-F17. -/
theorem test_frmCtrl : after (.frmCtrl 0x43) State.reset (fun t => t.fbufByte 0 == 0x43 && t.flen == 1) := by decide

/-- V-F18. -/
theorem test_frmCtrl_soh :
    after (.frmCtrl 0x01) { State.reset with flen := 133 } (fun t => t.result == .operand && t.flen == 133) := by decide

set_option maxRecDepth 100000 in
/-- V-F20. -/
theorem test_frmDecode :
    after .frmDecode (withFbuf .crc16 (frame1 0x01 0xFE 0x4A))
      (fun t => t.result == .ok && t.hdr == 0x01 && t.seq == 0x01 && t.plen == 128 && t.pbufBytes 5 == dataBytes ++ [0x1A] &&
        !t.z0) := by decide +kernel

set_option maxRecDepth 100000 in
/-- V-F27 with V-F30's last byte: the complement comes before the trailer. -/
theorem test_frmDecode_complement_first :
    after .frmDecode (withFbuf .crc16 (frame1 0x01 0xFD 0x4B)) (fun t => t.result == .complement && t.plen == 0) := by
  decide +kernel

/-- V-S2. -/
theorem test_seqCheck_dup :
    after .seqCheck { State.reset with seq := 0x04, expect := 0x05 } (fun t => t.result == .ok && t.seqCls == .dup) := by
  decide

/-- V-S5. -/
theorem test_seqCheck_ooo_wrap :
    after .seqCheck { State.reset with seq := 0x00, expect := 0xFF }
      (fun t => t.result == .sequence && t.seqCls == .ooo && t.errs && t.expect == 0xFF) := by decide

/-- V-S9. -/
theorem test_seqAdvance_wraps : after .seqAdvance { State.reset with expect := 0xFF } (fun t => t.expect == 0x00) := by decide

/-- V-N37. -/
theorem test_normReset :
    after .normReset (withCarry .crlf 0x0D 5) (fun t => !t.pv && t.pb == 0x00 && t.ocnt == 5) := by decide

/-- V-N32. -/
theorem test_normByte_fits_exactly :
    after (.normByte 0x41) (withCarry .crlf 0x0D 2048)
      (fun t => t.result == .ok && t.ocnt == 2050 && t.pv && t.pb == 0x41 && t.bytesAt 0x1800 2 == [0x0D, 0x0A]) := by decide

/-- V-N31. -/
theorem test_normByte_overflow :
    after (.normByte 0x41) (withCarry .crlf 0x0D 2049)
      (fun t => t.result == .overflow && t.ocnt == 2049 && t.pv && t.pb == 0x0D && t.errs) := by decide

/-- V-N17 under LF. -/
theorem test_normFlush_cr :
    after .normFlush (withCarry .lf 0x0D 0) (fun t => t.ocnt == 1 && t.byteAt 0x1000 == 0x0A && !t.pv) := by decide

/-- V-N18. -/
theorem test_normFlush_sub : after .normFlush (withCarry .lf 0x1A 7) (fun t => t.ocnt == 7 && !t.pv) := by decide

/-- V-N20. -/
theorem test_deliver_text :
    after .deliver { withPbuf [0x4F, 0x4B, 0x0D, 0x0A, 0x0D, 0x0A] with mode := .text, conv := .lf }
      (fun t => t.ocnt == 4 && t.bytesAt 0x1000 4 == [0x4F, 0x4B, 0x0A, 0x0A] && !t.pv) := by decide

/-- V-N24 on four bytes. -/
theorem test_deliver_binary :
    after .deliver { withPbuf dataBytes with carry := some 0x0D }
      (fun t => t.ocnt == 4 && t.bytesAt 0x1000 4 == dataBytes && t.pv && t.pb == 0x0D) := by decide

/-- V-N36. -/
theorem test_obufClear :
    after .obufClear { State.reset with ocnt := 2050, mem := [(0x1000, 0x41)] }
      (fun t => t.ocnt == 0 && t.byteAt 0x1000 == 0x41) := by decide

/-- V-N1 to V-N16 under LF with P_DBL_LE = TARGET and V-N1 with LITERAL. -/
theorem test_pair_lf :
    pair .literal .lf 0x0D 0x0D = ([0x0D, 0x0A, 0x0D, 0x0A], none) ∧ pair .target .lf 0x0D 0x0D = ([0x0A, 0x0A], none) ∧
      pair .target .lf 0x0D 0x41 = ([0x0A], some 0x41) ∧ pair .target .lf 0x1A 0x0A = ([], some 0x0A) ∧
      pair .target .lf 0x1A 0x41 = ([0x41], none) ∧ pair .target .lf 0x41 0x0D = ([0x41], some 0x0D) := by decide

/-- V-C14 and V-K5 as functions. -/
theorem test_functions : crc16 dataBytes = 0x146E ∧ checksum dataBytes = 0x1A := by decide +kernel

/-! ### Host accesses -/

/-- V-M1, V-M2, V-M3. -/
theorem test_read_reset :
    (State.reset.hostAccess (.read 0x000 .w32)).response = some (.word 0x58594D31) ∧
      (State.reset.hostAccess (.read 0x004 .w32)).response = some (.word 0x00000001) ∧
      (State.reset.hostAccess (.read 0x018 .w32)).response = some (.word 0x00000001) := by decide

/-- V-M4, V-M5. -/
theorem test_write_cfg :
    ((State.reset.hostAccess (.write32 0x004 0x00000007)).cfgWord = 0x00000005) ∧
      ((State.reset.hostAccess (.write32 0x004 0xFFFFFFFA)).cfgWord = 0x0000000A) := by decide

/-- V-M7, V-M8, V-M9. -/
theorem test_bus_errors :
    ∀ a ∈ [Access.read 0x034 .w32, .read 0x3FC .w32, .read 0xC05 .w8, .read 0x1802 .w8, .read 0x000 .w8, .write8 0x004 1,
        .read 0x002 .w32, .read 0x400 .w32, .write32 0x800 0, .write16 0x400 0],
      State.reset.hostAccess a = { State.reset with response := some .busError } := by decide

/-- V-M10, V-M11, V-M18. -/
theorem test_read_only_and_low_bits :
    ({ State.reset with mem := [(0x1000, 0x41)] }.hostAccess (.write8 0x1000 0x55)).byteAt 0x1000 = 0x41 ∧
      ({ State.reset with crc := 0x1234 }.hostAccess (.write32 0x010 0)).crc = 0x1234 ∧
      (State.reset.hostAccess (.write32 0x024 0xFFFFFFFF)).plen = 0x7FF := by decide

/-- V-M12. -/
theorem test_write_status :
    ({ State.reset with errs := true, ovr := true, result := .sequence }.hostAccess (.write32 0x00C 0x00000100)).statusWord =
      0x00000205 := by decide

/-- V-M14, V-M15. -/
theorem test_dropped_writes :
    ({ State.reset with busy := true }.hostAccess (.write32 0x024 5)) =
        { State.reset with busy := true, ovr := true, response := some .okay } ∧
      ({ State.reset with busy := true }.hostAccess (.write32 0x008 0x00000010)) =
        { State.reset with busy := true, ovr := true, response := some .okay } := by decide

/-- A reset takes the place of a pending input and cancels the command in flight (70_reset_and_hazards.md R270, R271). -/
theorem test_reset_cancels :
    stepped { State.reset with busy := true, cmdLatch := 0x00003111, lat := 2, plen := 5, inputs := [.reset, .poll] }
      (fun t => !t.busy && t.plen == 0 && t.cmdLatch == 0 && t.inputs == [.poll]) := by decide

/-! ## Witnesses: for each statement with hypotheses, states and operands that meet them, one for each clause -/

/-- A command in flight: the word, the latency left and the pending inputs. -/
def inFlight (w : Word) (lat : Nat) (ins : List Input) : State :=
  { State.reset with cmdLatch := w, busy := true, lat := lat, inputs := ins }

theorem witness_EncodeOfDecode : ∃ w i, decode w = .command i := ⟨0x01FFFF20, .frmEncode 0xFF 0xFF .nul, by decide⟩

theorem witness_LegalWordMatchesTable :
    legalWord 0x00000034 = true ∧ (∃ r, opMap (fieldOpc 0x00000034) = some r ∧ r.usesA = false) ∧
      legalWord 0x00000035 = false ∧ opMap (fieldOpc 0x00000035) = none := ⟨by decide, ⟨_, rfl, rfl⟩, by decide, by decide⟩

theorem witness_IllegalWordReportsErrIllegal :
    legalWord (inFlight 0x00000035 0 []).cmdLatch = false ∧ opMap (fieldOpc 0x00000035) = none ∧
      opMap (fieldOpc 0x000000FF) = none ∧ (∃ r, opMap (fieldOpc 0x02000020) = some r ∧ fieldRsv 0x02000020 ≠ 0) ∧
      (∃ r, opMap (fieldOpc 0x00000100) = some r ∧ r.usesA = false ∧ fieldA 0x00000100 ≠ 0) ∧
      (∃ r, opMap (fieldOpc 0x00013111) = some r ∧ r.usesB = false ∧ fieldB 0x00013111 ≠ 0) ∧
      (∃ r, opMap (fieldOpc 0x01000019) = some r ∧ r.usesP = false ∧ fieldP 0x01000019 = true) :=
  ⟨by decide, by decide, by decide, ⟨_, rfl, by decide⟩, ⟨_, rfl, rfl, by decide⟩, ⟨_, rfl, rfl, by decide⟩,
    ⟨_, rfl, rfl, by decide⟩⟩

theorem witness_StepRunsDecodedCommand :
    (∃ (s : State) (i : Instr), s.busy = true ∧ (s.lat = 0 ∨ s.inputs = []) ∧ decode s.cmdLatch = .command i) ∧
      (∃ (s : State) (r : Illegal), s.busy = true ∧ (s.lat = 0 ∨ s.inputs = []) ∧ decode s.cmdLatch = .illegal r) :=
  ⟨⟨inFlight 0x00004111 0 [.poll], .crcByte 0x41, by decide⟩, ⟨inFlight 0x00000100 3 [], .operandA, by decide⟩⟩

theorem witness_PendingInputsTakenInOrder :
    (∃ (s : State) (a : Access) (rest : List Input), s.inputs = .access a :: rest ∧ InputsMayCome s) ∧
      (∃ (s : State) (a : Access) (rest : List Input), s.inputs = .access a :: rest ∧ InputsMayCome s ∧ s.busy = true) ∧
      (∃ (s : State) (rest : List Input), s.inputs = .poll :: rest ∧ InputsMayCome s ∧ s.busy = true) ∧
      (∃ s : State, s.inputs = [] ∧ s.busy = false) :=
  ⟨⟨{ State.reset with inputs := [.access (.read 0x000 .w32)] }, _, [], rfl, .inl rfl⟩,
    ⟨inFlight 0 1 [.access (.read 0x000 .w32), .poll], _, [.poll], rfl, .inr (by decide), rfl⟩,
    ⟨inFlight 0 1 [.poll], [], rfl, .inr (by decide), rfl⟩, ⟨State.reset, rfl, rfl⟩⟩

theorem witness_BusyFallsWithinLatency : ∃ s : State, s.busy = true ∧ s.lat = 2 ∧ s.inputs ≠ [] :=
  ⟨inFlight 0 2 [.poll], by decide⟩

theorem witness_ResultIndependentOfLatency : ∃ s : State, s.busy = true ∧ (∀ i ∈ s.inputs, i ≠ .reset) ∧ s.lat ≠ 0 :=
  ⟨inFlight 0x00000012 2 [.access (.write32 0x024 0), .access (.write32 0x00C 0x100), .poll], by decide⟩

theorem witness_BareCommandRunsToCompletion :
    ∃ (s : State) (i : Instr) (rest : List Input), s.busy = false ∧ s.inputs = command i ++ rest :=
  ⟨{ State.reset with inputs := command .frmDecode ++ [.reset] }, .frmDecode, [.reset], rfl, rfl⟩

theorem witness_BusyWriteRace :
    ∀ lat ∈ [0, 1], ∃ s : State, ∃ v : Word, s.busy = true ∧ s.cmdLatch = 0x00000000 ∧ s.lat = lat ∧
      s.inputs = [.access (.write32 0x024 v)] := by
  intro lat _
  exact ⟨inFlight 0 lat [.access (.write32 0x024 5)], 5, rfl, rfl, rfl, rfl⟩

theorem witness_RefusedAccessChangesNothing :
    (∀ a ∈ [Access.read 0x034 .w32, .write32 0x031 0, .write8 0x033 0, .read 0x3FF .w8, .read 0x400 .w16, .read 0xC05 .w8,
        .read 0xFFF .w8, .read 0x1802 .w8, .read 0x1FFF .w8, .read 0x000 .other, .writeOther 0x400], a.legal = false) ∧
      memRead 0x000 8 = .read 0x000 .other ∧ memWrite 0x400 8 0 = .writeOther 0x400 ∧ memWrite 0x400 2 0 = .write16 0x400 0 ∧
      (∀ a ∈ [Access.read 0x000 .w32, .write32 0x030 0, .read 0x400 .w8, .write8 0x7FF 0, .read 0x800 .w8, .write8 0xC04 0,
        .read 0x1000 .w8, .write8 0x1801 0], a.legal = true) := by decide

theorem witness_BusyAccesses :
    (inFlight 0 0 []).busy = true ∧
      (∀ a ∈ [Access.read 0x008 .w32, .read 0x010 .w32, .read 0x030 .w32], a.legal = true ∧ a.offset ≠ 0x000 ∧
        a.offset ≠ 0x004 ∧ a.offset ≠ 0x00C) ∧
      (∀ a ∈ [Access.read 0x400 .w8, .read 0xC04 .w8, .read 0x1801 .w8], a.legal = true) ∧
      (∀ a ∈ [Access.write32 0x000 0, .write32 0x008 0, .write32 0x030 0, .write8 0x1801 0], a.legal = true ∧
        a.isWrite = true ∧ a.offset ≠ 0x00C) := by decide

/-- For the statements whose only hypothesis is BUSY = 0: ReadsHaveNoSideEffect, RegisterReadLayout,
CfgWriteKeepsLegalVariant, CmdWriteIssuesCommand (and BUSY = 1 for its second clause) and RegisterWrites, with the operands
of their clauses. -/
theorem witness_busy_clauses :
    State.reset.busy = false ∧ (inFlight 0 0 []).busy = true ∧ (0x00000007 : Word).extractLsb' 0 2 = 3 ∧
      (0x00000002 : Word).extractLsb' 0 2 = 2 ∧ 0x1000 ≤ (0x1801 : Offset).toNat ∧ (0x1801 : Offset).toNat ≤ 0x1801 := by
  decide

theorem witness_StatusWriteClearsStickyBits :
    (0x00000100 : Word).getLsbD 8 = true ∧ (0x00000100 : Word).getLsbD 9 = false ∧ (0x00000200 : Word).getLsbD 8 = false ∧
      (0x00000200 : Word).getLsbD 9 = true ∧
      ∃ u, exec (.frmCtrl 0x05) (State.reset.hostAccess (.write32 0x00C 0x00000300)) = .next u ∧ u.result ≠ .ok :=
  ⟨by decide, by decide, by decide, by decide, _, rfl, by decide⟩

theorem witness_BufferWriteThenRead :
    State.reset.busy = false ∧ (Access.read 0x1801 .w8).legal = true ∧ State.reset.mem.lookup 0x1801 = none ∧
      (∀ n ∈ [0x400, 0x7FF, 0x800, 0xC04], (0x400 ≤ n ∧ n ≤ 0x7FF) ∨ (0x800 ≤ n ∧ n ≤ 0xC04)) := by decide

theorem witness_ResetGivesResetValues :
    (∃ (s : State) (rest : List Input), s.inputs = .reset :: rest ∧ InputsMayCome s ∧ s.busy = false) ∧
      (∃ (s : State) (rest : List Input), s.inputs = .reset :: rest ∧ InputsMayCome s ∧ s.busy = true) :=
  ⟨⟨{ State.reset with inputs := [.reset], plen := 5 }, [], rfl, .inl rfl, rfl⟩,
    ⟨inFlight 0x00000033 1 [.reset, .poll], [.poll], rfl, .inr (by decide), rfl⟩⟩

theorem witness_ResetDrawsBuffersAnew :
    ∃ (s : State) (rest : List Input), s.inputs = .reset :: rest ∧ InputsMayCome s ∧ s.mem ≠ [] :=
  ⟨{ State.reset with inputs := [.reset], mem := [(0x400, 0x11)] }, [], rfl, .inl rfl, by decide⟩

/-- A state with a written byte and a full OBUF that has the invariant, and a step from it. -/
theorem witness_StepKeepsInvariant : ∃ s t : State, s.Inv ∧ step s = .next t ∧ s.mem ≠ [] ∧ s.ocnt = 2050 :=
  ⟨{ State.reset with mem := [(0x400, 0x11), (0x1801, 0x22)], ocnt := 2050 }, _,
    ⟨by decide, by decide, by decide, by decide⟩, rfl, by decide, rfl⟩

theorem witness_CanonicalMemoryUnique :
    ∃ m n : Memory, m.wf ∧ n.wf ∧ (∀ a, m.lookup a = n.lookup a) ∧ m ≠ [] :=
  ⟨[(0x400, 0x11), (0x401, 0x22)], [(0x400, 0x11), (0x401, 0x22)], by decide, by decide, fun _ => rfl, by decide⟩

/-- PlainWord and ByteWord: words of the opcode that are not the command's (NopOnlyFinishes, SessInitStartsSession and the
other statements that use them). -/
theorem witness_PlainWord_ByteWord :
    (fieldOpc 0x00000100 = fieldOpc 0x00000000 ∧ (0x00000100 : Word) ≠ 0x00000000) ∧
      (fieldOpc 0x00013111 = fieldOpc 0x00000011 ∧
        ∀ b : Byte, (0x00013111 : Word) ≠ 0x00000011 ||| (b.setWidth 32 <<< 8)) := by decide +kernel

theorem witness_Crc16FoldZeroAndLinear : ∃ xs ys : List Byte, xs.length = ys.length ∧ xs ≠ ys :=
  ⟨[0x41], [0x42], by decide⟩

theorem witness_ChecksumIsSumModulo256 : ∃ xs ys : List Byte, xs.Perm ys ∧ xs ≠ ys :=
  ⟨[0x41, 0x42], [0x42, 0x41], by decide⟩

theorem witness_PbufAccumulates :
    ({ State.reset with plen := 1024 } : State).plen.toNat ≤ 1024 ∧
      1024 < ({ State.reset with plen := 1025 } : State).plen.toNat := by decide

/-- CRC16_1K with PLEN given. -/
def with1k (n : BitVec 11) : State := { State.reset with variant := .crc16K, plen := n }

theorem witness_FrmEncodeBuildsFrame :
    (DataHeader State.reset.variant 0x01 ∧ ({ State.reset with plen := 128 } : State).plen.toNat ≤ sizeFor 0x01) ∧
      (DataHeader (with1k 1024).variant 0x02 ∧ (with1k 1024).plen.toNat ≤ sizeFor 0x02) ∧
      ¬DataHeader State.reset.variant 0x02 ∧ ¬DataHeader (with1k 0).variant 0x04 ∧
      sizeFor 0x01 < (with1k 129).plen.toNat ∧ sizeFor 0x02 < (with1k 1025).plen.toNat ∧
      (fieldOpc 0x02000020 = 0x20 ∧ fieldRsv 0x02000020 ≠ 0) ∧
      ({ State.reset with variant := .checksum } : State).variant = .checksum ∧ State.reset.variant ≠ .checksum := by
  unfold DataHeader
  decide

theorem witness_FrmCtrlBuildsControlFrame :
    (∀ c ∈ [(0x04 : Byte), 0x06, 0x15, 0x18, 0x43], ControlByte c) ∧ ¬ControlByte 0x01 ∧ ¬ControlByte 0x05 := by
  unfold ControlByte
  decide

/-- One frame for each clause: no bytes, a foreign header, STX without CRC16_1K, a control byte with two bytes, a data header
with one byte missing, a wrong complement. -/
theorem witness_FrmDecodeCheckOrder :
    State.reset.flen.toNat = 0 ∧
      ((withFbuf .crc16 [0x99]).flen.toNat ≠ 0 ∧ ¬ControlByte ((withFbuf .crc16 [0x99]).byteAt 0x800) ∧
        ¬DataHeader .crc16 ((withFbuf .crc16 [0x99]).byteAt 0x800)) ∧
      (¬ControlByte ((withFbuf .crc16 [0x02]).byteAt 0x800) ∧ ¬DataHeader .crc16 ((withFbuf .crc16 [0x02]).byteAt 0x800)) ∧
      ((withFbuf .crc16 [0x04, 0x00]).flen.toNat ≠ 0 ∧ ControlByte ((withFbuf .crc16 [0x04, 0x00]).byteAt 0x800) ∧
        (withFbuf .crc16 [0x04, 0x00]).flen.toNat ≠ 1) ∧
      ((withFbuf .crc16 [0x01]).flen.toNat ≠ 0 ∧ DataHeader .crc16 ((withFbuf .crc16 [0x01]).byteAt 0x800) ∧
        (withFbuf .crc16 [0x01]).flen.toNat ≠ 3 + sizeFor ((withFbuf .crc16 [0x01]).byteAt 0x800) + trailerOf .crc16) := by
  unfold ControlByte DataHeader
  decide

set_option maxRecDepth 100000 in
theorem witness_FrmDecodeCheckOrder_complement :
    ∃ s : State, DataHeader s.variant (s.byteAt 0x800) ∧
      s.flen.toNat = 3 + sizeFor (s.byteAt 0x800) + trailerOf s.variant ∧ s.byteAt 0x802 ≠ 0xFF - s.byteAt 0x801 := by
  refine ⟨withFbuf .crc16 (frame1 0x01 0xFD 0x4A), ?_⟩
  unfold DataHeader
  decide +kernel

set_option maxRecDepth 100000 in
theorem witness_FrmDecodeCheckOrder_integrity :
    ∃ s : State, DataHeader s.variant (s.byteAt 0x800) ∧
      s.flen.toNat = 3 + sizeFor (s.byteAt 0x800) + trailerOf s.variant ∧ s.byteAt 0x802 = 0xFF - s.byteAt 0x801 ∧
      s.bytesAt (0x803 + sizeFor (s.byteAt 0x800)) (trailerOf s.variant) ≠
        trailer s.variant (s.bytesAt 0x803 (sizeFor (s.byteAt 0x800))) := by
  refine ⟨withFbuf .crc16 (frame1 0x01 0xFE 0x4B), ?_⟩
  unfold DataHeader
  decide +kernel

theorem witness_FrmDecodeAcceptsControl : ∃ s : State, s.flen = 1 ∧ ControlByte (s.byteAt 0x800) := by
  refine ⟨withFbuf .crc16 [0x04], ?_⟩
  unfold ControlByte
  decide

set_option maxRecDepth 100000 in
/-- F1 under CRC16. -/
theorem witness_FrmDecodeAcceptsData :
    ∃ (s : State) (h : Byte), s.byteAt 0x800 = h ∧ DataHeader s.variant h ∧
      s.flen.toNat = 3 + sizeFor h + trailerOf s.variant ∧ s.byteAt 0x802 = 0xFF - s.byteAt 0x801 ∧
      s.bytesAt (0x803 + sizeFor h) (trailerOf s.variant) = trailer s.variant (s.bytesAt 0x803 (sizeFor h)) := by
  refine ⟨withFbuf .crc16 (frame1 0x01 0xFE 0x4A), 0x01, ?_⟩
  unfold DataHeader
  decide +kernel

/-- A frame of 1024 zero bytes with STX under CRC16_1K, by the laws of the frame. -/
theorem witness_FrmDecodeAcceptsData_stx :
    ∃ (s : State) (h : Byte), s.byteAt 0x800 = h ∧ DataHeader s.variant h ∧
      s.flen.toNat = 3 + sizeFor h + trailerOf s.variant ∧ s.byteAt 0x802 = 0xFF - s.byteAt 0x801 ∧
      s.bytesAt (0x803 + sizeFor h) (trailerOf s.variant) = trailer s.variant (s.bytesAt 0x803 (sizeFor h)) ∧
      h = 0x02 := by
  have hf := State.bytesAt_write (s := with1k 0)
    (t := (with1k 0).storeFrame (dataFrame .crc16K 0x02 0x01 (List.replicate 1024 0x00))) (a := fbufBase) rfl rfl
  have hl : (dataFrame .crc16K 0x02 0x01 (List.replicate 1024 0x00)).length = 1029 := by
    rw [dataFrame_length, List.length_replicate]
    rfl
  have hn := State.storeFrame_flen_toNat (with1k 0) (f := dataFrame .crc16K 0x02 0x01 (List.replicate 1024 0x00))
    (by rw [hl]; decide)
  obtain ⟨h0, h1, h2, h3, h4⟩ := State.fbuf_dataFrame hf
  rw [List.length_replicate] at h3 h4
  refine ⟨(with1k 0).storeFrame (dataFrame .crc16K 0x02 0x01 (List.replicate 1024 0x00)), 0x02, h0, .inr ⟨rfl, rfl⟩,
    hn.trans (hl.trans rfl), h2.trans (by rw [show State.byteAt _ 0x801 = 0x01 from h1]), ?_, rfl⟩
  have h3' : State.bytesAt ((with1k 0).storeFrame (dataFrame .crc16K 0x02 0x01 (List.replicate 1024 0x00))) 0x803
      (sizeFor 0x02) = List.replicate 1024 0x00 := h3
  rw [h3']
  exact h4

theorem witness_FrameRoundTrip :
    (DataHeader State.reset.variant 0x01 ∧ State.reset.plen.toNat ≤ sizeFor 0x01) ∧
      (DataHeader (with1k 1024).variant 0x02 ∧ (with1k 1024).plen.toNat ≤ sizeFor 0x02) := by
  unfold DataHeader
  decide

theorem witness_EndOfBatchBlock :
    State.reset.plen = 0 ∧ State.reset.variant ≠ .checksum ∧ ({ State.reset with variant := .checksum } : State).plen = 0 := by
  decide

theorem witness_ClassifyPartition :
    classify 0x05 0x05 = .new ∧ classify 0x04 0x05 = .dup ∧ classify 0x06 0x05 = .ooo ∧ classify 0xFF 0x00 = .dup := by decide

theorem witness_SeqCheckClassifies :
    classify State.reset.seq State.reset.expect ≠ .ooo ∧
      classify ({ State.reset with expect := 5 } : State).seq ({ State.reset with expect := 5 } : State).expect = .ooo := by
  decide

theorem witness_DuplicateSuppression : ∃ s : State, s.seq = s.expect ∧ s.expect = 0xFF :=
  ⟨{ State.reset with seq := 0xFF, expect := 0xFF }, by decide⟩

theorem witness_PairTable : OtherByte 0x41 ∧ OtherByte 0x42 := by
  unfold OtherByte
  decide

/-- A held byte, and an output that ends exactly at OBUF's end and one that ends one byte past it. -/
theorem witness_NormByteAppends :
    (State.reset.carry = none ∧ State.reset.ocnt.toNat + ([] : List Byte).length ≤ 2050) ∧
      (∀ n ∈ [(2048 : BitVec 12), 2049], ∃ f, (withCarry .crlf 0x0D n).carry = some f ∧
        pair Config.dblLe (withCarry .crlf 0x0D n).conv f 0x41 = ([0x0D, 0x0A], some 0x41)) ∧
      (withCarry .crlf 0x0D 2048).ocnt.toNat + [0x0D, 0x0A].length ≤ 2050 ∧
      2050 < (withCarry .crlf 0x0D 2049).ocnt.toNat + [0x0D, 0x0A].length :=
  ⟨by decide, fun _ _ => ⟨0x0D, rfl, rfl⟩, by decide, by decide⟩

theorem witness_NormFlushFlushesCarry :
    (State.reset.carry = none ∨ State.reset.carry = some 0x1A) ∧ (withCarry .lf 0x1A 0).carry = some 0x1A ∧
      (withCarry .crlf 0x0D 2048).carry = some 0x0D ∧ (withCarry .crlf 0x0A 2049).carry = some 0x0A ∧
      (OtherByte 0x41 ∧ (withCarry .crlf 0x41 2049).carry = some 0x41) ∧
      (withCarry .crlf 0x0D 2048).ocnt.toNat + (lineEnd .crlf).length ≤ 2050 ∧
      2050 < (withCarry .crlf 0x0A 2049).ocnt.toNat + (lineEnd .crlf).length ∧
      (withCarry .crlf 0x41 2049).ocnt.toNat + [(0x41 : Byte)].length ≤ 2050 := by
  unfold OtherByte
  decide

theorem witness_DeliverWritesObuf :
    (State.reset.plen.toNat ≤ 1024 ∧ State.reset.mode = .binary) ∧
      (({ State.reset with mode := .text, plen := 1024 } : State).plen.toNat ≤ 1024) ∧
      1024 < ({ State.reset with plen := 1025 } : State).plen.toNat := by decide

theorem witness_NormalizerOutputAlphabet :
    0x0D#8 ∈ (pair .literal .lf 0x0D 0x0D).1 ∧ 0x0D#8 ∈ (pair .literal .lf 0x0A 0x0A).1 ∧
      (0x0A#8 ∈ (pair .target .crlf 0x0D 0x41).1 ∧ classOf 0x0A ≠ .other) := by decide

/-- Four bytes in TEXT mode, whole and cut after the second, between CR and LF. -/
theorem witness_DeliverRechunking :
    (∃ s s1 s2 t1 : State, s.mode = .text ∧ s1.mode = .text ∧ s2.mode = .text ∧ s1.conv = s.conv ∧ s2.conv = s.conv ∧
      s.plen.toNat ≤ 1024 ∧ s.plen.toNat = s1.plen.toNat + s2.plen.toNat ∧ s1.carry = s.carry ∧
      (∀ i, i < s1.plen.toNat → s1.byteAt (0x400 + i) = s.byteAt (0x400 + i)) ∧
      (∀ i, i < s2.plen.toNat → s2.byteAt (0x400 + i) = s.byteAt (0x400 + s1.plen.toNat + i)) ∧
      exec .deliver s1 = .next t1 ∧ s2.carry = t1.carry ∧ t1.carry = some 0x0D) ∧
      (∃ s : State, s.mode = .text ∧ s.plen = 1 ∧ s.ocnt = 0) := by
  refine ⟨⟨{ withPbuf [0x4F, 0x4B, 0x0D, 0x0A] with mode := .text }, { withPbuf [0x4F, 0x4B, 0x0D] with mode := .text },
    { withPbuf [0x0A] with mode := .text, carry := some 0x0D }, _, rfl, rfl, rfl, rfl, rfl, by decide, by decide, rfl,
    by decide, by decide, rfl, by decide, by decide⟩, ⟨{ withPbuf [0x0D] with mode := .text }, by decide⟩⟩

theorem witness_PadStripping : (∀ b ∈ dataBytes, OtherByte b) ∧ dataBytes.length % 2 = 0 ∧ 124 % 2 = 0 := by
  unfold OtherByte
  decide

/-- An error of SEQ_CHECK and one of another command (CommandErrorAtomicity, ResultCodesOfCommands). -/
theorem witness_CommandErrorAtomicity :
    (∃ t, exec .seqCheck { State.reset with seq := 5 } = .next t ∧ t.result = .sequence) ∧
      (∃ t, exec (.frmCtrl 0x05) State.reset = .next t ∧ t.result = .operand) ∧
      (∃ t, exec .nop { State.reset with errs := true } = .next t ∧ t.result = .ok) :=
  ⟨⟨_, rfl, by decide⟩, ⟨_, rfl, by decide⟩, ⟨_, rfl, by decide⟩⟩

theorem witness_RegisterWriters :
    ∃ (i : Instr) (s t : State), exec i s = .next t ∧ writesCrc i = false ∧ writesCsum i = false ∧ writesExpect i = false ∧
      writesDecoded i = false ∧ i ≠ .frmDecode ∧ writesFlen i = false ∧ writesOcnt i = false ∧ writesCarry i = false ∧
      writesSeqCls i = false ∧ writesObuf i = false := ⟨.nop, State.reset, _, rfl, by decide⟩

/-- ERRS and OVR cleared by a write and by a reset, ERRS set by a completion, OVR by a dropped write, CFG written. -/
theorem witness_StickyBitsAndCfgHostOwned :
    stepped { State.reset with errs := true, ovr := true, inputs := [.access (.write32 0x00C 0x300)] }
        (fun t => !t.errs && !t.ovr) ∧
      stepped { State.reset with errs := true, ovr := true, inputs := [.reset] } (fun t => !t.errs && !t.ovr) ∧
      stepped (inFlight 0x00000002 0 []) (fun t => t.errs) ∧
      stepped (inFlight 0 1 [.access (.write32 0x024 0)]) (fun t => t.ovr) ∧
      stepped { State.reset with inputs := [.access (.write32 0x004 0)] } (fun t => t.variant == .checksum) := by decide

end Sys2Proof.Tests
end

section
/-! SUPPORT. What an aligned 32-bit access to a register does when BUSY = 0, register by register (10_state.md R30,
20_memory.md R72, R76), and ERRS of a failing command (10_state.md R35, 60_exceptions.md R240). -/

namespace Sys2Proof.Machine

/-- With BUSY = 0 a 32-bit read at a register's offset answers the register's value (20_memory.md R76). -/
theorem State.hostRead_reg_idle {s : State} (h : s.busy = false) (r : Reg) :
    s.hostRead r.offset .w32 = s.respond (.word (s.regWord r)) := by
  simp only [State.hostRead, targetOf_reg.2 ⟨rfl, rfl⟩, State.readReg_idle h]

/-- With BUSY = 0 a 32-bit write at a register's offset is the register's own write (20_memory.md R76). -/
theorem State.hostWrite_reg_idle {s : State} (h : s.busy = false) (r : Reg) (v : Word) :
    s.hostWrite r.offset .w32 v = (s.writeReg v r).respond .okay :=
  State.hostWrite_idle h (targetOf_reg.2 ⟨rfl, rfl⟩) v

/-- The value 3 of CFG[1:0] leaves VARIANT as it is (10_state.md R33). -/
theorem Variant.ofWrite_three (old : Variant) : old.ofWrite 3 = old := rfl

/-- Each variant's own code sets it (10_state.md R32). -/
theorem Variant.ofWrite_bits (old v : Variant) : old.ofWrite v.bits = v := by cases v <;> rfl

/-- A command that fails sets ERRS, whatever ERRS was (00_scope.md R10, 10_state.md R35). -/
theorem exec_errs_of_result_ne_ok {i : Instr} {s u : State} (h : exec i s = .next u) (hr : u.result ≠ .ok) :
    u.errs = true := by
  rcases exec_shape i s with ⟨he, _⟩ | ⟨he, _⟩ | ⟨he, _⟩ <;> cases h.symm.trans he
  · rfl
  · rfl
  · exact absurd rfl hr

/-- The reset step leaves every register as the state after reset has it (70_reset_and_hazards.md R270). -/
theorem State.resetStep_regWord (s : State) (rest : List Input) (r : Reg) :
    (s.resetStep rest).regWord r = State.reset.regWord r := by
  cases r <;> rfl

end Sys2Proof.Machine
end

section
/-! PROOFS. The registers: writes of CFG and STATUS, and the values after reset (10_state.md R33, R35, R51). -/

open Sys2Proof Sys2Proof.Machine

namespace Sys2Proof.Claims

/-- With BUSY = 0 every register reads its value and the read changes nothing but the response. -/
theorem readsWord_reg {s : State} (h : s.busy = false) (r : Reg) : ReadsWord s r.offset (s.regWord r) :=
  State.hostRead_reg_idle h r

/-- An input that may come is taken by the next step. -/
theorem step_of_inputsMayCome {s : State} {i : Input} {rest : List Input} (hi : s.inputs = i :: rest)
    (h : InputsMayCome s) : step s = .next (s.takeInput i rest) := by
  refine step_input (Bool.eq_false_iff.2 fun hd => ?_) hi
  obtain ⟨hb, hl | hn⟩ := (completionDue_iff s).1 hd
  · rcases h with h | h
    · simp [h] at hb
    · exact h hl
  · simp [hi] at hn

/-- A state reads the reset values when its registers, CMDLATCH and BUSY are those of the state after reset. -/
theorem atResetValues_of_regWord {t : State} (hl : t.cmdLatch = State.reset.cmdLatch)
    (hb : t.busy = State.reset.busy) (hr : ∀ r, t.regWord r = State.reset.regWord r) : AtResetValues t := by
  have reads (r : Reg) : ReadsWord t r.offset (State.reset.regWord r) := hr r ▸ readsWord_reg hb r
  exact ⟨hl, hb, reads .id, reads .cfg, reads .cmd, reads .status, reads .crc, reads .csum, reads .expect, reads .hdr,
    reads .seq, reads .plen, reads .flen, reads .ocnt, reads .nstate⟩

/-- The statements' codes of CFG[1:0] are the model's (10_state.md R32). -/
theorem bits_of_mem_variantCodes : ∀ p ∈ variantCodes, p.1 = p.2.bits := by decide

/-- Settles O17: with BUSY = 0 the access is `State.writeCfg`, whose VARIANT is `Variant.ofWrite` of the written bits. -/
theorem cfgWriteKeepsLegalVariant : Obligations.CfgWriteKeepsLegalVariant := by
  intro s v hb
  refine ⟨(s.writeCfg v).respond .okay, State.hostWrite_reg_idle hb .cfg v, ?_, ?_, rfl, rfl, rfl, rfl⟩
  · intro h3
    exact (congrArg s.variant.ofWrite h3).trans (Variant.ofWrite_three _)
  · intro p hp hv
    exact (congrArg s.variant.ofWrite (hv.trans (bits_of_mem_variantCodes p hp))).trans (Variant.ofWrite_bits _ _)

/-- Settles O18: the access is `State.writeStatus` whatever BUSY is, and every error of a command sets ERRS. -/
theorem statusWriteClearsStickyBits : Obligations.StatusWriteClearsStickyBits := by
  intro s v
  refine ⟨(s.writeStatus v).respond .okay, s.hostWrite_status v, ?_, ?_, ?_, ?_, rfl, rfl,
    fun _ _ => exec_errs_of_result_ne_ok⟩
  all_goals
    intro h
    simp [-BitVec.getLsbD_eq_getElem, h]

/-- Settles O22: the reset state has the reset values by its definition, and the step that takes a pending reset leaves every
register as the reset state has it. -/
theorem resetGivesResetValues : Obligations.ResetGivesResetValues := by
  refine ⟨atResetValues_of_regWord rfl rfl fun _ => rfl, fun s rest hi hm => ?_⟩
  exact ⟨s.resetStep rest, step_of_inputsMayCome hi hm,
    atResetValues_of_regWord rfl rfl (s.resetStep_regWord rest)⟩

end Sys2Proof.Claims
end

section
/-! SUPPORT. When an access is refused: exactly when it reaches nothing, and so exactly when it is illegal by the numbers
of the map (20_memory.md R72 to R74). -/

namespace Sys2Proof.Machine

/-- A register read answers a value, the register's or a free one (20_memory.md R76, R77). -/
theorem State.readReg_response_ne_busError (s : State) (r : Reg) : (s.readReg r).response ≠ some .busError := by
  unfold State.readReg
  split <;> simp

/-- A buffer read answers a value, the byte's or a free one (20_memory.md R76, R77). -/
theorem State.readByte_response_ne_busError (s : State) (a : Nat) : (s.readByte a).response ≠ some .busError := by
  unfold State.readByte
  split <;> simp

/-- A read answers a bus error exactly when it reaches nothing (20_memory.md R74). -/
theorem State.hostRead_response_eq_busError_iff {s : State} {off : Offset} {w : Width} :
    (s.hostRead off w).response = some .busError ↔ targetOf off w = none := by
  refine ⟨fun h => ?_, fun h => by simp [s.hostRead_refused h]⟩
  unfold State.hostRead at h
  split at h
  · assumption
  · exact absurd h (s.readReg_response_ne_busError _)
  all_goals exact absurd h (s.readByte_response_ne_busError _)

/-- A write answers a bus error exactly when it reaches nothing; a dropped write does not (20_memory.md R74, R77, log
entry 4). -/
theorem State.hostWrite_response_eq_busError_iff {s : State} {off : Offset} {w : Width} {v : Word} :
    (s.hostWrite off w v).response = some .busError ↔ targetOf off w = none := by
  rcases s.hostWrite_cases off w v with ⟨ht, h⟩ | ⟨t, ht, _, _, h⟩ | ⟨t, ht, _, h⟩ <;> simp [ht, h]

/-- Every access is a read or a write of the window, and it is legal exactly when its offset and width reach something. -/
theorem State.hostAccess_cases (s : State) (a : Access) :
    ∃ off w, a.legal = (targetOf off w).isSome ∧
      (s.hostAccess a = s.hostRead off w ∨ ∃ v, s.hostAccess a = s.hostWrite off w v) := by
  cases a with
  | read off w => exact ⟨off, w, (targetOf_isSome off w).symm, .inl rfl⟩
  | write8 off v => exact ⟨off, .w8, (targetOf_isSome off .w8).symm, .inr ⟨v.setWidth 32, rfl⟩⟩
  | write16 off v => exact ⟨off, .w16, (targetOf_isSome off .w16).symm, .inr ⟨v.setWidth 32, rfl⟩⟩
  | write32 off v => exact ⟨off, .w32, (targetOf_isSome off .w32).symm, .inr ⟨v, rfl⟩⟩
  | writeOther off => exact ⟨off, .other, (targetOf_isSome off .other).symm, .inr ⟨0, rfl⟩⟩

/-- An illegal access is answered with a bus error and does nothing else (20_memory.md R74). -/
theorem State.hostAccess_refused (s : State) {a : Access} (h : a.legal = false) :
    s.hostAccess a = s.respond .busError := by
  obtain ⟨off, w, hl, ha⟩ := s.hostAccess_cases a
  have ht : targetOf off w = none := by simpa [hl] using h
  rcases ha with ha | ⟨v, ha⟩
  · exact ha.trans (s.hostRead_refused ht)
  · exact ha.trans (s.hostWrite_refused ht v)

/-- An access answers a bus error only when it is illegal (20_memory.md R74). -/
theorem State.legal_eq_false_of_response_eq_busError {s : State} {a : Access}
    (h : (s.hostAccess a).response = some .busError) : a.legal = false := by
  obtain ⟨off, w, hl, ha⟩ := s.hostAccess_cases a
  have ht : targetOf off w = none := by
    rcases ha with ha | ⟨v, ha⟩ <;> rw [ha] at h
    · exact State.hostRead_response_eq_busError_iff.1 h
    · exact State.hostWrite_response_eq_busError_iff.1 h
  rw [hl, ht]
  rfl

/-- A write of `n` bytes has the width of `n` bytes (00_scope.md R9). -/
theorem memWrite_width (off : Offset) (n v : Nat) : (memWrite off n v).width = Width.ofBytes n := by
  unfold memWrite
  split <;> exact Eq.symm ‹_›

/-- An access whose number of bytes is neither 1 nor 4 is illegal at every offset (20_memory.md R72, R73). -/
theorem Access.legal_eq_false_of_ofBytes {a : Access} {n : Nat} (hw : a.width = Width.ofBytes n) (h1 : n ≠ 1)
    (h4 : n ≠ 4) : a.legal = false := by
  by_cases h2 : n = 2
  · subst h2
    rw [Access.legal, hw]
    rfl
  · rw [Access.legal, hw, Width.ofBytes_other h1 h2 h4]
    rfl

end Sys2Proof.Machine
end

section
/-! PROOFS. Host accesses: the refused ones (20_memory.md R72, R73, R74). -/

open Sys2Proof Sys2Proof.Machine

namespace Sys2Proof.Claims

/-- Settles O13: an access is refused exactly when its offset and width reach nothing, which is when it is illegal, and
one of any number of bytes but 1 and 4 is illegal at every offset. -/
theorem refusedAccessChangesNothing : Obligations.RefusedAccessChangesNothing := by
  refine ⟨fun s a => ⟨s.hostAccess_refused, fun hl hr => ?_⟩, fun s off n v h1 h4 => ⟨?_, ?_⟩⟩
  · exact Bool.noConfusion (hl.symm.trans (State.legal_eq_false_of_response_eq_busError hr))
  · exact s.hostAccess_refused (Access.legal_eq_false_of_ofBytes (n := n) rfl h1 h4)
  · exact s.hostAccess_refused (Access.legal_eq_false_of_ofBytes (memWrite_width off n v) h1 h4)

end Sys2Proof.Claims
end

section
/-! SUPPORT. Which words are legal, said once: the fields a row of the opcode map accepts are what its match and mask test
and what the decoder checks (30_encoding.md R103, R112). -/

namespace Sys2Proof

/-- RSV is zero and so is every field the row marks "0" (30_encoding.md R103). -/
def OpMapRow.accepts (m : OpMapRow) (w : Word) : Prop :=
  fieldRsv w = 0 ∧ (m.usesA = false → fieldA w = 0) ∧ (m.usesB = false → fieldB w = 0) ∧
    (m.usesP = false → fieldP w = false)

/-- A word decodes to a command exactly when its opcode has a row that accepts it (30_encoding.md R112). -/
theorem exists_decode_eq_command_iff (w : Word) :
    (∃ i, decode w = .command i) ↔ ∃ m, opMap (fieldOpc w) = some m ∧ m.accepts w := by
  simp only [decode_eq_command, OpMapRow.accepts]
  constructor
  · rintro ⟨_, m, hm, hr, ha, hb, hp, -⟩
    exact ⟨m, hm, hr, ha, hb, hp⟩
  · rintro ⟨m, hm, hr, ha, hb, hp⟩
    exact ⟨_, m, hm, hr, ha, hb, hp, rfl⟩

/-- A word equals one with RSV zero exactly when its RSV is zero and the other fields agree. -/
theorem eq_iff_fields {v w : Word} (hw : fieldRsv w = 0) :
    v = w ↔ fieldRsv v = 0 ∧ fieldOpc v = fieldOpc w ∧ fieldA v = fieldA w ∧ fieldB v = fieldB w ∧
      fieldP v = fieldP w := by
  constructor
  · rintro rfl
    exact ⟨hw, rfl, rfl, rfl, rfl⟩
  · rintro ⟨hv, ho, ha, hb, hp⟩
    rw [← commandWord_fields hv, ho, ha, hb, hp, commandWord_fields hw]

/-- A byte field tested by a mask is zero when the row uses the field, or when the field is zero. -/
theorem and_byteMask_eq_zero_iff (x : Byte) (used : Bool) :
    x &&& (if used then 0 else 0xFF) = 0 ↔ (used = false → x = 0) := by
  have hx : x &&& 0xFF#8 = x := BitVec.and_allOnes
  cases used <;> simp [hx]

/-- The bit field tested by a mask is zero when the row uses the field, or when the field is zero. -/
theorem and_bitMask_eq_false_iff (p used : Bool) : (p && !used) = false ↔ (used = false → p = false) := by
  cases used <;> simp

/-- A table row that agrees with the opcode map covers a word exactly when the opcode is the row's and the map's row accepts
the word (30_encoding.md R103). -/
theorem OpcodeRow.covers_iff_accepts {r : OpcodeRow} {m : OpMapRow} {w : Word} (hr : rowAgrees r = true)
    (hm : opMap (fieldOpc r.mtch) = some m) :
    r.covers w = true ↔ fieldOpc w = fieldOpc r.mtch ∧ m.accepts w := by
  simp only [rowAgrees, hm, Bool.and_eq_true, beq_iff_eq] at hr
  obtain ⟨⟨⟨⟨⟨⟨⟨⟨maskOpc, maskRsv⟩, mtchRsv⟩, maskA⟩, mtchA⟩, maskB⟩, mtchB⟩, maskP⟩, mtchP⟩ := hr
  have hOpc : fieldOpc w &&& 0xFF = fieldOpc w := BitVec.and_allOnes
  have hRsv : fieldRsv w &&& 0x7F = fieldRsv w := BitVec.and_allOnes
  rw [OpcodeRow.covers, beq_iff_eq, eq_iff_fields mtchRsv, fieldRsv_and, fieldOpc_and, fieldA_and, fieldB_and, fieldP_and,
    maskOpc, maskRsv, maskA, mtchA, maskB, mtchB, maskP, mtchP, hOpc, hRsv, and_byteMask_eq_zero_iff,
    and_byteMask_eq_zero_iff, and_bitMask_eq_false_iff, OpMapRow.accepts]
  exact and_left_comm

/-- The opcode map has a row for the opcode of every row of the opcode table. -/
theorem exists_opMap_of_rowAgrees {r : OpcodeRow} (hr : rowAgrees r = true) :
    ∃ m, opMap (fieldOpc r.mtch) = some m := by
  cases hm : opMap (fieldOpc r.mtch) with
  | none => simp [rowAgrees, hm] at hr
  | some m => exact ⟨m, rfl⟩

/-- Every listed opcode is that of a row of the opcode table (30_encoding.md R102). -/
theorem exists_opcodeRow_of_listed : ∀ o ∈ listedOpcodes, ∃ r ∈ opcodeRows, fieldOpc r.mtch = o := by decide

/-- Some row of the opcode table covers a word exactly when the word's opcode has a row of the opcode map that accepts it
(30_encoding.md R103). -/
theorem legalWord_iff_accepts (w : Word) :
    legalWord w = true ↔ ∃ m, opMap (fieldOpc w) = some m ∧ m.accepts w := by
  rw [legalWord, List.any_eq_true]
  constructor
  · rintro ⟨r, hr, hc⟩
    have ha := opcodeRows_agree r hr
    obtain ⟨m, hm⟩ := exists_opMap_of_rowAgrees ha
    obtain ⟨ho, hw⟩ := (OpcodeRow.covers_iff_accepts ha hm).1 hc
    exact ⟨m, ho ▸ hm, hw⟩
  · rintro ⟨m, hm, hw⟩
    obtain ⟨r, hr, ho⟩ := exists_opcodeRow_of_listed _ (opMap_listed (fieldOpc w) (by simp [hm]))
    exact ⟨r, hr, (OpcodeRow.covers_iff_accepts (opcodeRows_agree r hr) (ho ▸ hm)).2 ⟨ho.symm, hw⟩⟩

/-- A word is legal by the opcode table exactly when it decodes to a command (30_encoding.md R103). -/
theorem legalWord_iff_decode (w : Word) : legalWord w = true ↔ ∃ i, decode w = .command i :=
  (legalWord_iff_accepts w).trans (exists_decode_eq_command_iff w).symm

/-- The decoder rejects every word that is not legal (30_encoding.md R104). -/
theorem exists_illegal_of_legalWord_eq_false {w : Word} (h : legalWord w = false) : ∃ r, decode w = .illegal r := by
  refine (decode_total w).resolve_left fun hc => ?_
  rw [(legalWord_iff_decode w).2 hc] at h
  cases h

/-- A word of an opcode without a row is illegal (30_encoding.md R104 (a)). -/
theorem legalWord_eq_false_of_opMap_none {w : Word} (h : opMap (fieldOpc w) = none) : legalWord w = false := by
  rw [Bool.eq_false_iff, ne_eq, legalWord_iff_accepts]
  rintro ⟨m, hm, -⟩
  cases h.symm.trans hm

/-- A word that its opcode's row does not accept is illegal (30_encoding.md R104 (b)). -/
theorem legalWord_eq_false_of_not_accepts {w : Word} {m : OpMapRow} (hm : opMap (fieldOpc w) = some m)
    (h : ¬m.accepts w) : legalWord w = false := by
  rw [Bool.eq_false_iff, ne_eq, legalWord_iff_accepts]
  rintro ⟨m', hm', hw⟩
  cases hm.symm.trans hm'
  exact h hw

/-- 238 of the 256 opcodes have no row (30_encoding.md R104 (a)). -/
theorem unlistedOpcodes_length :
    ((List.range 256).filter fun n => (opMap (BitVec.ofNat 8 n)).isNone).length = 238 := by decide +kernel

end Sys2Proof
end

section
/-! PROOFS. Encoding: the legal words (30_encoding.md R103) and the completion of the others (30_encoding.md R104). -/

open Sys2Proof Sys2Proof.Machine

namespace Sys2Proof.Claims

/-- Settles O3: a row of the opcode table covers exactly the words of its opcode that the opcode map's row accepts, and the
decoder checks the same fields. -/
theorem legalWordMatchesTable : Obligations.LegalWordMatchesTable := fun w =>
  ⟨legalWord_iff_accepts w, legalWord_iff_decode w⟩

/-- Settles O4: a word that is not legal is rejected by the decoder, so its completion is `State.raise .illegal`; a word is
not legal when its opcode has no row or the row does not accept it. -/
theorem illegalWordReportsErrIllegal : Obligations.IllegalWordReportsErrIllegal := by
  refine ⟨fun s h => ?_, fun w => ?_, unlistedOpcodes_length, fun w => legalWord_eq_false_of_opMap_none,
    fun w r hr hbad => legalWord_eq_false_of_not_accepts hr ?_⟩
  · obtain ⟨why, hd⟩ := exists_illegal_of_legalWord_eq_false h
    exact complete_illegal hd
  · rw [← legalWord_iff_decode]
    exact (legalWord w).eq_false_or_eq_true
  · rintro ⟨hrsv, hA, hB, hP⟩
    rcases hbad with h | ⟨hu, h⟩ | ⟨hu, h⟩ | ⟨hu, h⟩
    · exact h hrsv
    · exact h (hA hu)
    · exact h (hB hu)
    · exact Bool.noConfusion (h.symm.trans (hP hu))

end Sys2Proof.Claims
end

section
/-! SUPPORT. The words of a command whose row uses no operand field or only the byte A: which words the row accepts, and that
the decoder rejects every other word of the opcode (30_encoding.md R101, R103, R112). -/

open Sys2Proof Sys2Proof.Machine

namespace Sys2Proof.Claims

/-- A word that its opcode's row accepts decodes to the row's command (30_encoding.md R112). -/
theorem decode_of_accepts {w : Word} {m : OpMapRow} (hm : opMap (fieldOpc w) = some m) (hw : m.accepts w) :
    decode w = .command (m.build (fieldA w) (fieldB w) (fieldP w)) := by
  obtain ⟨hr, ha, hb, hp⟩ := hw
  exact decode_eq_command.2 ⟨m, hm, hr, ha, hb, hp, rfl⟩

/-- A word that its opcode's row does not accept is rejected (30_encoding.md R103). -/
theorem exists_illegal_of_not_accepts {w : Word} {m : OpMapRow} (hm : opMap (fieldOpc w) = some m)
    (hw : ¬m.accepts w) : ∃ r, decode w = .illegal r :=
  exists_illegal_of_legalWord_eq_false (legalWord_eq_false_of_not_accepts hm hw)

/-- A row without operands accepts the word of the opcode alone. -/
theorem accepts_rowPlain_iff {i : Instr} {w : Word} :
    (rowPlain i).accepts w ↔ w = commandWord (fieldOpc w) 0 0 false := by
  rw [eq_iff_fields (fieldRsv_commandWord ..)]
  simp [OpMapRow.accepts, rowPlain]

/-- A row whose only operand is A accepts the words of the opcode and any A. -/
theorem accepts_rowByte_iff {f : Byte → Instr} {w : Word} :
    (rowByte f).accepts w ↔ w = commandWord (fieldOpc w) (fieldA w) 0 false := by
  rw [eq_iff_fields (fieldRsv_commandWord ..)]
  simp [OpMapRow.accepts, rowByte]

/-- A row without operands gives its command the word of the opcode alone and no other. -/
theorem plainWord_of_opMap {w : Word} {i : Instr} (hm : opMap (fieldOpc w) = some (rowPlain i))
    (hw : w = commandWord (fieldOpc w) 0 0 false) : PlainWord w i := by
  refine ⟨decode_of_accepts hm (accepts_rowPlain_iff.2 hw), fun v ho hv => ?_⟩
  refine exists_illegal_of_not_accepts (ho ▸ hm) fun ha => hv ?_
  rw [accepts_rowPlain_iff.1 ha, ho, ← hw]

/-- A row whose only operand is A gives its command the words of the opcode and any A, and no other. -/
theorem byteWord_of_opMap {w : Word} {f : Byte → Instr} (hm : opMap (fieldOpc w) = some (rowByte f))
    (hw : w = commandWord (fieldOpc w) 0 0 false) : ByteWord w f := by
  have word (b : Byte) : w ||| (b.setWidth 32 <<< 8) = commandWord (fieldOpc w) b 0 false := by
    rw [← commandWord_or_byte, ← hw]
  refine ⟨fun b => ?_, fun v ho hv => ?_⟩
  · have h := decode_of_accepts (w := commandWord (fieldOpc w) b 0 false) (m := rowByte f) (by simpa using hm)
      (accepts_rowByte_iff.2 (by simp))
    rw [word, h, fieldA_commandWord]
    rfl
  · refine exists_illegal_of_not_accepts (ho ▸ hm) fun ha => hv (fieldA v) ?_
    rw [word, ← ho]
    exact accepts_rowByte_iff.1 ha

end Sys2Proof.Claims
end

section
/-! SUPPORT. The loop of `crc_step` as an iteration, and what the commands of the two accumulators do
(41_checksum_crc.md R130, R133 to R138). -/

namespace Sys2Proof.Machine

/-- `n` turns of the loop are the turn iterated `n` times (41_checksum_crc.md R130). -/
theorem crcShifts_eq_iterate (n : Nat) (c : Half) : crcShifts n c = crcShift^[n] c := by
  induction n generalizing c with
  | zero => rfl
  | succ n ih => rw [crcShifts, ih, Function.iterate_succ_apply]

/-- The byte in bits [15:8] over zeros is the byte shifted up by eight (41_checksum_crc.md R130). -/
theorem byte_append_zero (b : Byte) : b ++ 0#8 = b.setWidth 16 <<< 8 := by
  apply BitVec.eq_of_getLsbD_eq
  intro i hi
  rw [BitVec.getLsbD_append, BitVec.getLsbD_shiftLeft, BitVec.getLsbD_setWidth]
  by_cases h : i < 8
  · simp [h]
  · simp [h, show i < 16 from hi, show i - 8 < 16 by omega]

/-- CRC_PBUF with PLEN inside PBUF (41_checksum_crc.md R135). -/
theorem exec_crcPbuf_of_le {s : State} (h : s.plen.toNat ≤ pbufSize) :
    exec .crcPbuf s = .next { s with crc := crcFrom s.crc (s.pbufBytes s.plen.toNat) }.finishOk :=
  if_neg h.not_gt

/-- CRC_PBUF with PLEN past PBUF (41_checksum_crc.md R135). -/
theorem exec_crcPbuf_of_gt {s : State} (h : pbufSize < s.plen.toNat) : exec .crcPbuf s = .next (s.raise .operand) :=
  if_pos h

/-- CSUM_PBUF with PLEN inside PBUF (41_checksum_crc.md R138). -/
theorem exec_csumPbuf_of_le {s : State} (h : s.plen.toNat ≤ pbufSize) :
    exec .csumPbuf s = .next { s with csum := checksumFrom s.csum (s.pbufBytes s.plen.toNat) }.finishOk :=
  if_neg h.not_gt

/-- CSUM_PBUF with PLEN past PBUF (41_checksum_crc.md R138). -/
theorem exec_csumPbuf_of_gt {s : State} (h : pbufSize < s.plen.toNat) : exec .csumPbuf s = .next (s.raise .operand) :=
  if_pos h

/-- A command that completes with OK and a new CRC leaves every other register and every buffer byte. -/
theorem exec_writesOnlyCrc {i : Instr} {s : State} {c : Half} (h : exec i s = .next { s with crc := c }.finishOk) :
    ∃ t, exec i s = .next t ∧ t.crc = c ∧ t.result = .ok ∧ t.busy = false ∧
      { t with crc := s.crc, result := s.result, busy := s.busy } = s ∧ s.bytesKept t :=
  ⟨_, h, rfl, rfl, rfl, rfl, State.byteAt_congr rfl rfl⟩

/-- A command that completes with OK and a new checksum leaves every other register and every buffer byte. -/
theorem exec_writesOnlyCsum {i : Instr} {s : State} {c : Byte} (h : exec i s = .next { s with csum := c }.finishOk) :
    ∃ t, exec i s = .next t ∧ t.csum = c ∧ t.result = .ok ∧ t.busy = false ∧
      { t with csum := s.csum, result := s.result, busy := s.busy } = s ∧ s.bytesKept t :=
  ⟨_, h, rfl, rfl, rfl, rfl, State.byteAt_congr rfl rfl⟩

end Sys2Proof.Machine
end

section
/-! PROOFS. The CRC generator and the checksum unit (41_checksum_crc.md R130, R132 to R138), and the two clearing commands of
the normalizer (44_normalizer.md R199, R203). -/

open Sys2Proof Sys2Proof.Machine

namespace Sys2Proof.Claims

/-- Settles O29: the model's loop is the turn iterated, the byte stands in bits [15:8], and the check value is computed. -/
theorem crcStepFollowsPseudocode : Obligations.CrcStepFollowsPseudocode := by
  refine ⟨fun c b => ?_, by decide +kernel⟩
  rw [crcStep, crcShifts_eq_iterate, byte_append_zero]
  rfl

/-- Settles O32: the sum is `checksumFrom_toNat` from zero, and the order does not matter because addition modulo 256 is
commutative and associative. -/
theorem checksumIsSumModulo256 : Obligations.ChecksumIsSumModulo256 := by
  exact ⟨fun d => (checksumFrom_toNat 0 d).trans (by simp), rfl, fun xs ys h => h.foldl_op_eq⟩

/-- Settles O33: each command is one register's update and `finish(OK)`. -/
theorem clearingCommands : Obligations.ClearingCommands := by
  refine ⟨plainWord_of_opMap rfl rfl, plainWord_of_opMap rfl rfl, plainWord_of_opMap rfl rfl,
    plainWord_of_opMap rfl rfl, fun s => ⟨exec_writesOnlyCrc rfl, exec_writesOnlyCsum rfl, ?_, ?_⟩⟩
  · exact ⟨_, rfl, rfl, rfl, rfl, rfl, State.byteAt_congr rfl rfl⟩
  · exact ⟨_, rfl, rfl, rfl, rfl, rfl, State.byteAt_congr rfl rfl⟩

/-- Settles O34: each command feeds its byte by one step of its function, and folding over a joined sequence goes on from
the first part. -/
theorem byteAccumulates : Obligations.ByteAccumulates := by
  refine ⟨byteWord_of_opMap rfl rfl, byteWord_of_opMap rfl rfl, crcFrom_append 0, fun s b =>
    ⟨exec_writesOnlyCrc rfl, ?_⟩⟩
  obtain ⟨t, ht, hc, hrest⟩ := exec_writesOnlyCsum (i := .csumByte b) (s := s) rfl
  exact ⟨t, ht, hc ▸ BitVec.toNat_add s.csum b, hrest⟩

/-- Settles O35: with PLEN inside PBUF each command folds its function over PBUF[0..PLEN), and past it each raises
ERR_OPERAND. -/
theorem pbufAccumulates : Obligations.PbufAccumulates := by
  refine ⟨plainWord_of_opMap rfl rfl, plainWord_of_opMap rfl rfl, fun s =>
    ⟨fun h => exec_writesOnlyCrc (exec_crcPbuf_of_le h), fun h => ?_, fun h =>
      ⟨exec_crcPbuf_of_gt h, exec_csumPbuf_of_gt h⟩⟩⟩
  obtain ⟨t, ht, hc, hrest⟩ := exec_writesOnlyCsum (exec_csumPbuf_of_le h)
  refine ⟨t, ht, ?_, hrest⟩
  rw [hc, checksumFrom_toNat, State.pbufBytes, State.bytesAt, List.map_map]
  rfl

end Sys2Proof.Claims
end

section
/-! SUPPORT. The statements' words for frames in the model's functions (42_block_codec.md R150, R152, R154). -/

open Sys2Proof Sys2Proof.Machine

namespace Sys2Proof.Claims

theorem isControl_iff {c : Byte} : isControl c = true ↔ ControlByte c := by
  simp [isControl, ControlByte, eot, Machine.ack, nak, can, chrC, or_assoc]

theorem headerLegal_iff {v : Variant} {h : Byte} : headerLegal v h = true ↔ DataHeader v h := by
  simp [headerLegal, DataHeader, soh, stx]

theorem payloadSize_eq_sizeFor (h : Byte) : payloadSize h = sizeFor h := rfl

theorem trailerSize_eq_trailerOf (v : Variant) : trailerSize v = trailerOf v := by cases v <;> rfl

theorem padByte_eq (pad : Pad) : padByte pad = if pad = .nul then 0x00 else 0x1A := by cases pad <;> rfl

theorem frameLength_eq (v : Variant) (h : Byte) : frameLength v h = 3 + sizeFor h + trailerOf v := by
  rw [frameLength, payloadSize_eq_sizeFor, trailerSize_eq_trailerOf]

end Sys2Proof.Claims
end

section
/-! SUPPORT. What FRM_ENCODE and FRM_CTRL do on each side of their checks, and what a stored frame leaves in FBUF
(42_block_codec.md R151, R155, R156). -/

namespace Sys2Proof.Machine

/-- A header that the variant allows is SOH or STX (42_block_codec.md R150). -/
theorem isDataHeader_of_headerLegal {v : Variant} {h : Byte} (hl : headerLegal v h = true) : isDataHeader h = true := by
  simp only [headerLegal, isDataHeader, Bool.or_eq_true, Bool.and_eq_true] at hl ⊢
  exact hl.imp_right And.left

/-- A header that the variant allows is no byte of CTRL (42_block_codec.md R150, R154). -/
theorem isControl_of_headerLegal {v : Variant} {h : Byte} (hl : headerLegal v h = true) : isControl h = false := by
  refine Bool.eq_false_iff.2 fun hc => ?_
  exact Bool.noConfusion ((isDataHeader_of_isControl hc).symm.trans (isDataHeader_of_headerLegal hl))

theorem exec_frmCtrl_of_isControl {s : State} {c : Byte} (h : isControl c = true) :
    exec (.frmCtrl c) s = .next (s.storeFrame [c]).finishOk :=
  if_pos h

theorem exec_frmCtrl_of_not_isControl {s : State} {c : Byte} (h : ¬isControl c = true) :
    exec (.frmCtrl c) s = .next (s.raise .operand) :=
  if_neg h

/-- FRM_ENCODE with a header the variant allows and a payload that fits it (42_block_codec.md R155). -/
theorem exec_frmEncode_of_legal {s : State} {h sq : Byte} {pad : Pad} (hl : headerLegal s.variant h = true)
    (hp : s.plen.toNat ≤ payloadSize h) :
    exec (.frmEncode h sq pad) s =
      .next (s.storeFrame (dataFrame s.variant h sq (paddedPayload h pad (s.pbufBytes s.plen.toNat)))).finishOk := by
  simp [exec, execFrmEncode, isDataHeader_of_headerLegal hl, hl, hp.not_gt]

/-- FRM_ENCODE with a header the variant does not allow or a payload that is too long for it (42_block_codec.md R155). -/
theorem exec_frmEncode_of_not_legal {s : State} {h sq : Byte} {pad : Pad}
    (hbad : headerLegal s.variant h = false ∨ payloadSize h < s.plen.toNat) :
    exec (.frmEncode h sq pad) s = .next (s.raise .operand) := by
  simp only [exec, execFrmEncode, gt_iff_lt]
  rcases hbad with hl | hp
  · simp [hl]
  · simp [hp]

/-- A stored frame reads back from FBUF (42_block_codec.md R155). -/
theorem State.bytesAt_storeFrame (s : State) (f : List Byte) : (s.storeFrame f).finishOk.bytesAt fbufBase f.length = f :=
  State.bytesAt_write (s := s) rfl rfl

/-- A frame that fits FBUF leaves every byte outside FBUF[0..FLEN) (42_block_codec.md R155). -/
theorem State.storeFrame_bytesKeptOutside (s : State) {f : List Byte} (h : f.length ≤ fbufSize) :
    s.bytesKeptOutside (s.storeFrame f).finishOk fbufBase (s.storeFrame f).finishOk.flen.toNat := by
  rw [State.finishOk_flen, State.storeFrame_flen_toNat s h]
  exact State.byteAt_write_outside rfl rfl

/-- Each byte of the padded payload: a byte of PBUF before PLEN, the pad byte from there on (42_block_codec.md R151). -/
theorem paddedPayload_pbufBytes {s : State} {h : Byte} {pad : Pad} {n : Nat} (hn : n ≤ payloadSize h) :
    paddedPayload h pad (s.pbufBytes n) =
      (List.range (payloadSize h)).map fun i => if i < n then s.byteAt (pbufBase + i) else padByte pad := by
  have hd : (s.pbufBytes n).length = n := State.bytesAt_length s pbufBase n
  refine List.ext_getElem (by simp [paddedPayload_length, hd, hn]) fun i h1 h2 => ?_
  rw [List.getElem_map, List.getElem_range]
  by_cases hi : i < n
  · rw [if_pos hi, paddedPayload_getElem_data (hd.symm ▸ hi)]
    exact State.bytesAt_getElem s pbufBase n i _
  · rw [if_neg hi, paddedPayload_getElem_pad (by omega)]

/-- The trailer of the checksum variant, byte by byte (42_block_codec.md R153). -/
theorem State.bytesAt_trailer_checksum {s : State} {v : Variant} {pay : List Byte} {a : Nat} (hv : v = .checksum)
    (h : s.bytesAt a (trailerSize v) = trailer v pay) : s.byteAt a = checksum pay := by
  subst hv
  exact List.head_eq_of_cons_eq h

/-- The trailer of the two CRC variants, byte by byte: the high byte first (42_block_codec.md R153). -/
theorem State.bytesAt_trailer_crc {s : State} {v : Variant} {pay : List Byte} {a : Nat} (hv : v ≠ .checksum)
    (h : s.bytesAt a (trailerSize v) = trailer v pay) :
    s.byteAt a = (crc16 pay).extractLsb' 8 8 ∧ s.byteAt (a + 1) = (crc16 pay).extractLsb' 0 8 := by
  have h' : [s.byteAt a, s.byteAt (a + 1)] = [(crc16 pay).extractLsb' 8 8, (crc16 pay).extractLsb' 0 8] := by
    cases v with
    | checksum => exact (hv rfl).elim
    | crc16 => exact h
    | crc16K => exact h
  simpa using h'

end Sys2Proof.Machine
end

section
/-! SUPPORT. The words of FRM_ENCODE, whose row uses the operands A, B and P (30_encoding.md R100 to R103). -/

namespace Sys2Proof

/-- A word from its opcode and pad select and its two byte operands (30_encoding.md R100). -/
theorem commandWord_or_bytes (o a b : Byte) (p : Bool) :
    commandWord o 0 0 p ||| (a.setWidth 32 <<< 8) ||| (b.setWidth 32 <<< 16) = commandWord o a b p := by
  apply BitVec.eq_of_getLsbD_eq
  intro i hi
  simp only [BitVec.getLsbD_or, getLsbD_commandWord, BitVec.getLsbD_shiftLeft, BitVec.getLsbD_setWidth, hi]
  by_cases h1 : i < 8
  · simp [h1, show i < 16 by omega]
  · by_cases h2 : i < 16
    · simp [h1, h2, show i - 8 < 32 by omega]
    · by_cases h3 : i < 24
      · simp [h1, h2, h3, BitVec.getLsbD_of_ge a (i - 8) (by omega), show i - 16 < 32 by omega]
      · simp [h1, h2, h3, BitVec.getLsbD_of_ge a (i - 8) (by omega), BitVec.getLsbD_of_ge b (i - 16) (by omega)]

/-- The words of FRM_ENCODE (30_encoding.md R102). -/
theorem decode_frmEncode (h sq : Byte) (p : Bool) :
    decode (commandWord 0x20 0 0 p ||| (h.setWidth 32 <<< 8) ||| (sq.setWidth 32 <<< 16)) =
      .command (.frmEncode h sq (padOfBit p)) := by
  rw [commandWord_or_bytes, decode_eq_command]
  exact ⟨⟨true, true, true, fun a b p => .frmEncode a b (padOfBit p)⟩, by simp; rfl, by simp⟩

/-- A word with a nonzero RSV is illegal (30_encoding.md R103). -/
theorem exists_illegal_of_fieldRsv_ne_zero {w : Word} (h : fieldRsv w ≠ 0) : ∃ r, decode w = .illegal r := by
  refine (decode_total w).resolve_left ?_
  rintro ⟨i, hi⟩
  obtain ⟨_, _, hr, _⟩ := decode_eq_command.1 hi
  exact h hr

end Sys2Proof
end

section
/-! SUPPORT. The errors of FRM_DECODE, check by check (42_block_codec.md R158 steps 1 to 5). -/

namespace Sys2Proof.Machine

variable {s : State}

theorem exec_frmDecode_of_reject {c : ResultCode} (h : s.frameVerdict = .reject c) :
    exec .frmDecode s = .next (s.raise c) := by
  simp [exec, execFrmDecode, h]

theorem State.frameVerdict_of_flen_eq_zero (h : s.flen.toNat = 0) : s.frameVerdict = .reject .length := if_pos h

theorem State.frameVerdict_of_control_long (h0 : s.flen.toNat ≠ 0) (hc : isControl (s.fbufByte 0) = true)
    (h1 : s.flen.toNat ≠ 1) : s.frameVerdict = .reject .length := by
  simp [State.frameVerdict, h0, hc, h1]

theorem State.frameVerdict_of_foreign_header (h0 : s.flen.toNat ≠ 0) (hc : isControl (s.fbufByte 0) = false)
    (hl : headerLegal s.variant (s.fbufByte 0) = false) : s.frameVerdict = .reject .header := by
  simp [State.frameVerdict, h0, hc, hl]

theorem State.frameVerdict_of_data_length (h0 : s.flen.toNat ≠ 0) (hl : headerLegal s.variant (s.fbufByte 0) = true)
    (hf : s.flen.toNat ≠ frameLength s.variant (s.fbufByte 0)) : s.frameVerdict = .reject .length := by
  simp [State.frameVerdict, h0, isControl_of_headerLegal hl, isDataHeader_of_headerLegal hl, hl, hf]

theorem State.frameVerdict_of_complement (hl : headerLegal s.variant (s.fbufByte 0) = true)
    (hf : s.flen.toNat = frameLength s.variant (s.fbufByte 0)) (hk : s.fbufByte 2 ≠ 0xFF - s.fbufByte 1) :
    s.frameVerdict = .reject .complement := by
  rw [State.frameVerdict_data (isDataHeader_of_headerLegal hl) hl hf]
  exact if_pos hk

theorem State.frameVerdict_of_integrity (hl : headerLegal s.variant (s.fbufByte 0) = true)
    (hf : s.flen.toNat = frameLength s.variant (s.fbufByte 0)) (hk : s.fbufByte 2 = 0xFF - s.fbufByte 1)
    (ht : s.fbufBytes (3 + payloadSize (s.fbufByte 0)) (trailerSize s.variant) ≠
      trailer s.variant (s.fbufBytes 3 (payloadSize (s.fbufByte 0)))) :
    s.frameVerdict = .reject .integrity := by
  rw [State.frameVerdict_data (isDataHeader_of_headerLegal hl) hl hf, dataVerdict, if_neg (not_not.2 hk), if_pos ht]

end Sys2Proof.Machine
end

section
/-! PROOFS. The framer and deframer: FRM_ENCODE, FRM_CTRL and the errors of FRM_DECODE (42_block_codec.md R155, R156,
R158). -/

open Sys2Proof Sys2Proof.Machine

namespace Sys2Proof.Claims

/-- Settles O36: the frame stored is header, sequence byte, complement, padded payload and trailer, and it reads back part by
part (`State.fbuf_dataFrame`); with a header the variant does not allow or PLEN too large the command raises ERR_OPERAND. -/
theorem frmEncodeBuildsFrame : Obligations.FrmEncodeBuildsFrame := by
  refine ⟨fun h sq => ⟨decode_frmEncode h sq false, decode_frmEncode h sq true⟩,
    fun w _ => exists_illegal_of_fieldRsv_ne_zero, fun s h sq pad => ⟨fun hh hp => ?_, fun hbad => ?_⟩⟩
  · have hl := headerLegal_iff.2 hh
    have hlen : (paddedPayload h pad (s.pbufBytes s.plen.toNat)).length = sizeFor h :=
      paddedPayload_length ((State.bytesAt_length ..).le.trans hp)
    have hexec := exec_frmEncode_of_legal (sq := sq) (pad := pad) hl hp
    have hpay := paddedPayload_pbufBytes (s := s) (pad := pad) hp
    generalize paddedPayload h pad (s.pbufBytes s.plen.toNat) = pay at hlen hexec hpay
    obtain ⟨hhdr, hseq, hcompl, hdata, htrail⟩ :=
      State.fbuf_dataFrame (s.bytesAt_storeFrame (dataFrame s.variant h sq pay))
    rw [hlen] at hdata htrail
    rw [State.fbufBytes, ← Nat.add_assoc] at htrail
    have hframe : (dataFrame s.variant h sq pay).length = frameLength s.variant h := by
      rw [dataFrame_length, hlen]
      rfl
    have hfit := hframe.trans_le (frameLength_le s.variant h)
    refine ⟨_, pay, hexec, ?_, ?_, hhdr, hseq, hcompl, hdata, fun hv => State.bytesAt_trailer_checksum hv htrail,
      fun hv => ?_, s.storeFrame_bytesKeptOutside hfit, rfl, rfl, rfl⟩
    · rw [hpay, padByte_eq]
      rfl
    · rw [State.finishOk_flen, State.storeFrame_flen_toNat s hfit, hframe, frameLength_eq]
    · rw [Nat.add_right_comm 0x803 1]
      exact State.bytesAt_trailer_crc hv htrail
  · refine exec_frmEncode_of_not_legal (hbad.imp_left fun hh => ?_)
    rwa [← headerLegal_iff, Bool.not_eq_true] at hh

/-- Settles O37: a byte of CTRL is stored as the whole frame; any other byte raises ERR_OPERAND. -/
theorem frmCtrlBuildsControlFrame : Obligations.FrmCtrlBuildsControlFrame := by
  refine ⟨byteWord_of_opMap rfl rfl, fun s c => ⟨fun hc => ?_, fun hc => ?_⟩⟩
  · exact ⟨_, exec_frmCtrl_of_isControl (isControl_iff.2 hc), List.head_eq_of_cons_eq (s.bytesAt_storeFrame [c]), rfl,
      State.byteAt_write_outside (bs := [c]) rfl rfl, rfl, rfl, rfl⟩
  · exact exec_frmCtrl_of_not_isControl fun h => hc (isControl_iff.1 h)

/-- Settles O38: each clause is one branch of the checks' order, and a rejected frame only raises its error. -/
theorem frmDecodeCheckOrder : Obligations.FrmDecodeCheckOrder := by
  intro s
  rw [← frameLength_eq, ← trailerSize_eq_trailerOf, ← headerLegal_iff, ← isControl_iff, Bool.not_eq_true,
    Bool.not_eq_true]
  refine ⟨fun h0 => ?_, fun h0 hc hl => ?_, fun h0 hc h1 => ?_, fun h0 hl hf => ?_, fun hl hf hk => ?_,
    fun hl hf hk ht => ?_⟩
  · exact exec_frmDecode_of_reject (State.frameVerdict_of_flen_eq_zero h0)
  · exact exec_frmDecode_of_reject (State.frameVerdict_of_foreign_header h0 hc hl)
  · exact exec_frmDecode_of_reject (State.frameVerdict_of_control_long h0 hc h1)
  · exact exec_frmDecode_of_reject (State.frameVerdict_of_data_length h0 hl hf)
  · exact exec_frmDecode_of_reject (State.frameVerdict_of_complement hl hf hk)
  · refine exec_frmDecode_of_reject (State.frameVerdict_of_integrity hl hf hk ?_)
    rwa [State.fbufBytes, ← Nat.add_assoc]

end Sys2Proof.Claims
end

section
/-! SUPPORT. Each class of a sequence byte as an equation with the expected byte (43_sequence.md R180), and the list of the
254 OOO bytes. -/

namespace Sys2Proof.Machine

variable {sq e : Byte}

/-- No byte is the one before it modulo 256, so no byte is both NEW and DUP. -/
theorem byte_ne_sub_one (e : Byte) : e ≠ e - 1 := by bv_omega

/-- The byte before another modulo 256, as a number. -/
theorem eq_sub_one_iff_toNat : sq = e - 1 ↔ sq.toNat = (e.toNat + 255) % 256 := by bv_omega

theorem classify_eq_new_iff : classify sq e = .new ↔ sq = e := by
  unfold classify
  split_ifs with hnew <;> simp [hnew]

theorem classify_eq_dup_iff : classify sq e = .dup ↔ sq = e - 1 := by
  unfold classify
  split_ifs with hnew hdup
  · exact iff_of_false nofun fun h => byte_ne_sub_one e (hnew.symm.trans h)
  · exact iff_of_true rfl hdup
  · exact iff_of_false nofun hdup

theorem classify_eq_ooo_iff : classify sq e = .ooo ↔ sq ≠ e ∧ sq ≠ e - 1 := by
  unfold classify
  split_ifs with hnew hdup
  · exact iff_of_false nofun fun h => h.1 hnew
  · exact iff_of_false nofun fun h => h.2 hdup
  · exact iff_of_true rfl ⟨hnew, hdup⟩

/-- All bytes but the expected one and the one before it. -/
def outOfOrderBytes (e : Byte) : List Byte := ((FinEnum.toList Byte).erase e).erase (e - 1)

theorem outOfOrderBytes_nodup (e : Byte) : (outOfOrderBytes e).Nodup := (FinEnum.nodup_toList.erase _).erase _

theorem mem_outOfOrderBytes : sq ∈ outOfOrderBytes e ↔ classify sq e = .ooo := by
  rw [outOfOrderBytes, (FinEnum.nodup_toList.erase e).mem_erase_iff, FinEnum.nodup_toList.mem_erase_iff,
    classify_eq_ooo_iff]
  simp only [FinEnum.mem_toList, and_true]
  exact and_comm

/-- Two of the 256 bytes are erased, and they differ. -/
theorem outOfOrderBytes_length (e : Byte) : (outOfOrderBytes e).length = 254 := by
  have hall : (FinEnum.toList Byte).length = 256 := by simp [FinEnum.toList]
  have hmem : e - 1 ∈ (FinEnum.toList Byte).erase e :=
    FinEnum.nodup_toList.mem_erase_iff.2 ⟨(byte_ne_sub_one e).symm, FinEnum.mem_toList _⟩
  rw [outOfOrderBytes, List.length_erase_of_mem hmem, List.length_erase_of_mem (FinEnum.mem_toList e), hall]

end Sys2Proof.Machine
end

section
/-! PROOFS. Sequence classification: the partition, SEQ_CHECK and SEQ_ADVANCE (43_sequence.md R180 to R182). -/

open Sys2Proof Sys2Proof.Machine

namespace Sys2Proof.Claims

/-- Settles O43: NEW and DUP are each one equation for the sequence byte, with different solutions, and OOO is the list of
all bytes with the two solutions erased. -/
theorem classifyPartition : Obligations.ClassifyPartition := by
  refine ⟨fun sq e => ?_, fun e => ?_, by decide⟩
  · rw [← eq_sub_one_iff_toNat, ne_eq (sq.toNat), ← eq_sub_one_iff_toNat]
    refine ⟨classify_eq_new_iff, ?_, classify_eq_ooo_iff⟩
    rw [classify_eq_dup_iff]
    exact ⟨fun h => ⟨h ▸ (byte_ne_sub_one e).symm, h⟩, And.right⟩
  · simp only [classify_eq_new_iff, classify_eq_dup_iff, existsUnique_eq, true_and]
    exact ⟨outOfOrderBytes e, outOfOrderBytes_nodup e, outOfOrderBytes_length e, fun _ => mem_outOfOrderBytes⟩

/-- Settles O44: an OOO byte raises ERR_SEQUENCE beside the write of SEQCLS, and every other byte completes with OK. -/
theorem seqCheckClassifies : Obligations.SeqCheckClassifies := by
  refine ⟨plainWord_of_opMap rfl rfl, fun s => ?_⟩
  by_cases h : classify s.seq s.expect = .ooo
  · exact ⟨_, exec_seqCheck_ooo h, h.symm, rfl, (absurd h ·), fun _ => ⟨rfl, rfl⟩, rfl, State.byteAt_congr rfl rfl⟩
  · exact ⟨_, exec_seqCheck_done rfl h, rfl, rfl, fun _ => ⟨rfl, rfl⟩, (absurd · h), rfl, State.byteAt_congr rfl rfl⟩

/-- Settles O45: the command is EXPECT's update and `finish(OK)`, and byte addition wraps at 256. -/
theorem seqAdvanceWraps : Obligations.SeqAdvanceWraps :=
  ⟨plainWord_of_opMap rfl rfl, fun s =>
    ⟨_, rfl, BitVec.toNat_add s.expect 1, rfl, rfl, rfl, State.byteAt_congr rfl rfl⟩⟩

end Sys2Proof.Claims
end

section
/-! SUPPORT. What the normalizer's commands write: the flush by the pending byte, the run over the payload as the loop of
44_normalizer.md R202, and DELIVER on each side of its check (44_normalizer.md R198, R201, R202). -/

namespace Sys2Proof.Machine

variable (p : DblLe) (c : Conv)

/-- Nothing pending emits nothing (44_normalizer.md R198). -/
theorem nflush_none : nflush p c none = ([], none) := rfl

/-- A pending SUB emits nothing (44_normalizer.md R201). -/
theorem nflush_sub : nflush p c (some 0x1A) = ([], none) := rfl

/-- A pending CR emits LE (44_normalizer.md R201). -/
theorem nflush_cr : nflush p c (some 0x0D) = (lineEnd c, none) := rfl

/-- A pending LF emits LE (44_normalizer.md R201). -/
theorem nflush_lf : nflush p c (some 0x0A) = (lineEnd c, none) := rfl

/-- A pending OTHER byte emits itself (44_normalizer.md R201). -/
theorem nflush_other {f : Byte} (h : classOf f = .other) : nflush p c (some f) = ([f], none) := by
  simp [nflush, pair, h]

/-- The run over the payload as a loop over the indices of PBUF (44_normalizer.md R202). -/
theorem nrun_pbufBytes (k : Option Byte) (s : State) (n : Nat) :
    nrun p c k (s.pbufBytes n) =
      (List.range n).foldl
        (fun acc i => (acc.1 ++ (nstep p c acc.2 (s.byteAt (pbufBase + i))).1,
          (nstep p c acc.2 (s.byteAt (pbufBase + i))).2))
        ([], k) :=
  (nrun_foldl p c [] k _).trans List.foldl_map

variable {s : State}

theorem State.deliverOutput_of_binary (h : s.mode = .binary) :
    s.deliverOutput = (s.pbufBytes s.plen.toNat, s.carry) := by
  simp [State.deliverOutput, h]

theorem State.deliverOutput_of_text (h : s.mode = .text) :
    s.deliverOutput = nrun Config.dblLe s.conv s.carry (s.pbufBytes s.plen.toNat) := by
  simp [State.deliverOutput, h]

/-- An output length that OBUF allows fits OCNT's 12 bits (10_state.md R44). -/
theorem toNat_ofNat_of_le_obufSize {n : Nat} (h : n ≤ obufSize) : (BitVec.ofNat 12 n).toNat = n := by
  unfold obufSize at h
  exact (BitVec.toNat_ofNat ..).trans (Nat.mod_eq_of_lt (by omega))

/-- DELIVER with PLEN inside PBUF (44_normalizer.md R202). -/
theorem exec_deliver_of_le (h : s.plen.toNat ≤ pbufSize) :
    exec .deliver s = .next (s.storeOutput s.deliverOutput).finishOk :=
  if_neg h.not_gt

/-- DELIVER with PLEN past PBUF (44_normalizer.md R202). -/
theorem exec_deliver_of_gt (h : pbufSize < s.plen.toNat) : exec .deliver s = .next (s.raise .operand) :=
  if_pos h

end Sys2Proof.Machine
end

section
/-! PROOFS. The normalizer: the pair table and the commands that write OBUF (44_normalizer.md R192, R194, R200 to R202). -/

open Sys2Proof Sys2Proof.Machine

namespace Sys2Proof.Claims

/-- The statements' OTHER bytes are the model's class of that name (00_scope.md R11). -/
theorem classOf_eq_other_iff {b : Byte} : classOf b = .other ↔ OtherByte b := by
  unfold classOf OtherByte crByte lfByte subByte
  split_ifs with hcr hlf hsub
  · exact iff_of_false nofun fun h => h.1 hcr
  · exact iff_of_false nofun fun h => h.2.1 hlf
  · exact iff_of_false nofun fun h => h.2.2 hsub
  · exact iff_of_true rfl ⟨hcr, hlf, hsub⟩

/-- A command that appends `out` with the new carry `k` writes it at OBUF[OCNT] and only there, or raises ERR_OVERFLOW
(44_normalizer.md R204). -/
theorem exec_appendOutput {i : Instr} {s : State} {out : List Byte} {k : Option Byte}
    (h : exec i s = .next (s.appendOutput (out, k))) :
    (s.ocnt.toNat + out.length ≤ 2050 →
      ∃ t, exec i s = .next t ∧ t.bytesAt (0x1000 + s.ocnt.toNat) out.length = out ∧
        s.bytesKeptOutside t (0x1000 + s.ocnt.toNat) out.length ∧ t.ocnt.toNat = s.ocnt.toNat + out.length ∧
        t.carry = k ∧ t.result = .ok ∧ t.busy = false ∧
        { t with mem := s.mem, ocnt := s.ocnt, carry := s.carry, result := s.result, busy := s.busy } = s) ∧
    (2050 < s.ocnt.toNat + out.length → FailsWith i s .overflow) := by
  rcases s.appendOutput_cases (out, k) with ⟨hover, happ⟩ | ⟨hfit, happ⟩
  · exact ⟨fun hle => absurd hle (Nat.not_le.2 hover), fun _ => h.trans (congrArg _ happ)⟩
  · refine ⟨fun _ => ⟨_, h.trans (congrArg _ happ), ?_⟩, fun hlt => absurd hfit (Nat.not_le.2 hlt)⟩
    exact ⟨State.bytesAt_write (s := s) rfl rfl, State.byteAt_write_outside rfl rfl, toNat_ofNat_of_le_obufSize hfit, rfl,
      rfl, rfl, rfl⟩

/-- Settles O49: NORM_BYTE appends the output of `nstep`, which is nothing for an empty carry and the pair's output
otherwise. -/
theorem normByteAppends : Obligations.NormByteAppends := by
  refine ⟨byteWord_of_opMap rfl rfl, fun s b out k hstep => exec_appendOutput ?_⟩
  have hout : nstep Config.dblLe s.conv s.carry b = (out, k) := by
    rcases hstep with ⟨hc, rfl, rfl⟩ | ⟨f, hc, hpair⟩ <;> rw [hc]
    · rfl
    · exact hpair
  rw [← hout]
  rfl

/-- Settles O50: NORM_FLUSH appends the output of `nflush`, which the class of the pending byte determines. -/
theorem normFlushFlushesCarry : Obligations.NormFlushFlushesCarry := by
  refine ⟨plainWord_of_opMap rfl rfl, fun s out hflush => exec_appendOutput ?_⟩
  have hout : nflush Config.dblLe s.conv s.carry = (out, none) := by
    rcases hflush with ⟨hc | hc, rfl⟩ | ⟨hc | hc, rfl⟩ | ⟨f, hf, hc, rfl⟩ <;> rw [hc]
    · exact nflush_none ..
    · exact nflush_sub ..
    · exact nflush_cr ..
    · exact nflush_lf ..
    · exact nflush_other _ _ (classOf_eq_other_iff.2 hf)
  rw [← hout]
  rfl

/-- Settles O51: DELIVER stores `State.deliverOutput`, the payload itself in BINARY and `nrun` over it in TEXT, which OBUF
always holds. -/
theorem deliverWritesObuf : Obligations.DeliverWritesObuf := by
  refine ⟨plainWord_of_opMap rfl rfl, fun s => ⟨fun hp => ?_, exec_deliver_of_gt⟩⟩
  refine ⟨_, s.deliverOutput.1, exec_deliver_of_le hp, fun hb => ?_, fun ht => ?_,
    toNat_ofNat_of_le_obufSize (State.deliverOutput_length hp), State.bytesAt_write (s := s) rfl rfl,
    State.byteAt_write_outside rfl rfl, rfl, rfl, rfl⟩
  · rw [State.finishOk_carry, State.storeOutput_carry, State.deliverOutput_of_binary hb]
    exact ⟨rfl, rfl⟩
  · exact (State.deliverOutput_of_text ht).trans (nrun_pbufBytes ..)

/-- Settles O47: the classes of the two bytes pick the cell, and the line ends are the table's by computation. -/
theorem pairTable : Obligations.PairTable := by
  refine ⟨fun p c x y hx hy => ?_, fun c => ?_, rfl, rfl⟩
  · rw [← classOf_eq_other_iff] at hx hy
    simp [pair, hx, hy]
  · cases c <;> exact ⟨rfl, rfl⟩

end Sys2Proof.Claims
end

section
/-! PROOFS. The system commands: NOP and SESS_INIT (45_system.md R230, R231). -/

open Sys2Proof Sys2Proof.Machine

namespace Sys2Proof.Claims

/-- Settles O27: the command is `finish(OK)` alone, which touches neither memory nor seed. -/
theorem nopOnlyFinishes : Obligations.NopOnlyFinishes :=
  ⟨plainWord_of_opMap rfl rfl, fun s => ⟨s.finishOk, rfl, rfl, rfl, rfl, State.byteAt_congr rfl rfl⟩⟩

/-- Settles O28: the command writes the nine start values and `finish(OK)`, and neither memory nor seed. -/
theorem sessInitStartsSession : Obligations.SessInitStartsSession := by
  refine ⟨byteWord_of_opMap rfl rfl, fun s e => ⟨_, rfl, ?_⟩⟩
  exact ⟨rfl, rfl, rfl, rfl, rfl, rfl, rfl, rfl, rfl, rfl, rfl, rfl, State.byteAt_congr rfl rfl⟩

end Sys2Proof.Claims
end

section
/-! SUPPORT. The encoder against the opcode map: the word of a command is read back through the row of its opcode, and each
row builds commands whose word is written from the fields the row uses (30_encoding.md R100 to R102). -/

open Sys2Proof Sys2Proof.Machine

namespace Sys2Proof.Claims

/-- The word of an opcode alone decodes to the command of a row without operands. -/
theorem decode_commandWord_plain {o : Byte} {i : Instr} (h : opMap o = some (rowPlain i)) :
    decode (commandWord o 0 0 false) = .command i := by
  rw [decode_of_accepts (m := rowPlain i) (by simpa using h) (accepts_rowPlain_iff.2 (by simp))]
  rfl

/-- A word with the operand A decodes to the command with that operand of a row whose only operand is A. -/
theorem decode_commandWord_byte {o : Byte} {f : Byte → Instr} (h : opMap o = some (rowByte f)) (b : Byte) :
    decode (commandWord o b 0 false) = .command (f b) := by
  rw [decode_of_accepts (m := rowByte f) (by simpa using h) (accepts_rowByte_iff.2 (by simp)), fieldA_commandWord]
  rfl

/-- The row of FRM_ENCODE, the only one that uses all three operand fields (30_encoding.md R102). -/
def rowFrmEncode : OpMapRow := ⟨true, true, true, fun a b p => .frmEncode a b (padOfBit p)⟩

/-- The row `r` builds commands whose words have the opcode `o` and exactly the fields that `r` uses. -/
inductive EncodesRow (o : Byte) : OpMapRow → Prop where
  | plain {i : Instr} (h : encode i = commandWord o 0 0 false) : EncodesRow o (rowPlain i)
  | byte {f : Byte → Instr} (h : ∀ b, encode (f b) = commandWord o b 0 false) : EncodesRow o (rowByte f)
  | frmEncode (h : ∀ a b p, encode (rowFrmEncode.build a b p) = commandWord o a b p) : EncodesRow o rowFrmEncode

/-- The encoder writes every row of the opcode map (30_encoding.md R102). -/
theorem encodesRow_of_listed : ∀ o ∈ listedOpcodes, ∃ r, opMap o = some r ∧ EncodesRow o r := by
  have plain {o : Byte} {i : Instr} (h : opMap o = some (rowPlain i)) (he : encode i = commandWord o 0 0 false) :
      ∃ r, opMap o = some r ∧ EncodesRow o r := ⟨_, h, .plain he⟩
  have byte {o : Byte} {f : Byte → Instr} (h : opMap o = some (rowByte f))
      (he : ∀ b, encode (f b) = commandWord o b 0 false) : ∃ r, opMap o = some r ∧ EncodesRow o r := ⟨_, h, .byte he⟩
  have frame : ∃ r, opMap 0x20 = some r ∧ EncodesRow 0x20 r :=
    ⟨rowFrmEncode, rfl, .frmEncode fun a b p => by simp [rowFrmEncode, encode]⟩
  simp only [listedOpcodes, List.forall_mem_cons, List.not_mem_nil, false_implies, implies_true, and_true]
  exact ⟨plain rfl rfl, byte rfl fun _ => rfl, plain rfl rfl, byte rfl fun _ => rfl, plain rfl rfl, plain rfl rfl,
    byte rfl fun _ => rfl, plain rfl rfl, frame, byte rfl fun _ => rfl, plain rfl rfl, plain rfl rfl, plain rfl rfl,
    plain rfl rfl, byte rfl fun _ => rfl, plain rfl rfl, plain rfl rfl, plain rfl rfl⟩

/-- The command a row builds from a word it accepts has that word (30_encoding.md R101, R102). -/
theorem encode_build_of_accepts {w : Word} {r : OpMapRow} (hr : EncodesRow (fieldOpc w) r) (hw : r.accepts w) :
    encode (r.build (fieldA w) (fieldB w) (fieldP w)) = w := by
  cases hr with
  | plain h => exact h.trans (accepts_rowPlain_iff.1 hw).symm
  | byte h => exact (h _).trans (accepts_rowByte_iff.1 hw).symm
  | frmEncode h => exact (h ..).trans (commandWord_fields hw.1)

end Sys2Proof.Claims
end

section
/-! PROOFS. Encoding: decoder and encoder are inverse to each other on the legal words (30_encoding.md section 1). -/

open Sys2Proof Sys2Proof.Machine

namespace Sys2Proof.Claims

/-- Settles O1: the opcode map has the row of each command's opcode, and the fields of the command's word are those the row
builds the command from. -/
theorem decodeOfEncode : Obligations.DecodeOfEncode := by
  intro i
  cases i with
  | nop => exact decode_commandWord_plain rfl
  | sessInit e => exact decode_commandWord_byte rfl e
  | crcInit => exact decode_commandWord_plain rfl
  | crcByte b => exact decode_commandWord_byte rfl b
  | crcPbuf => exact decode_commandWord_plain rfl
  | csumInit => exact decode_commandWord_plain rfl
  | csumByte b => exact decode_commandWord_byte rfl b
  | csumPbuf => exact decode_commandWord_plain rfl
  | frmEncode h sq pad =>
    have hd := decode_frmEncode h sq (padBit pad)
    rwa [commandWord_or_bytes, padOfBit_padBit] at hd
  | frmCtrl c => exact decode_commandWord_byte rfl c
  | frmDecode => exact decode_commandWord_plain rfl
  | seqCheck => exact decode_commandWord_plain rfl
  | seqAdvance => exact decode_commandWord_plain rfl
  | normReset => exact decode_commandWord_plain rfl
  | normByte b => exact decode_commandWord_byte rfl b
  | normFlush => exact decode_commandWord_plain rfl
  | deliver => exact decode_commandWord_plain rfl
  | obufClear => exact decode_commandWord_plain rfl

/-- Settles O2: a word that decodes has the opcode of a row that accepts it, and the encoder writes that row. -/
theorem encodeOfDecode : Obligations.EncodeOfDecode := by
  intro w i h
  obtain ⟨r, hm, hr, ha, hb, hp, rfl⟩ := decode_eq_command.1 h
  obtain ⟨r', hm', he⟩ := encodesRow_of_listed _ (opMap_listed (fieldOpc w) (by simp [hm]))
  cases hm.symm.trans hm'
  exact encode_build_of_accepts he ⟨hr, ha, hb, hp⟩

/-- Settles O5: the decoder computes on each of the fifteen words. -/
theorem writtenOutWordsDecode : Obligations.WrittenOutWordsDecode := by
  unfold Obligations.WrittenOutWordsDecode
  decide

end Sys2Proof.Claims
end

section
/-! SUPPORT. The invariant across each kind of step: pending writes and completions, host accesses, and reset
(20_memory.md R71, 44_normalizer.md R205). -/

namespace Sys2Proof.Machine

/-- The invariant speaks of memory, OCNT and the draws only. -/
theorem State.Inv.congr {s t : State} (h : s.Inv) (hm : t.mem = s.mem) (ho : t.ocnt = s.ocnt)
    (hb : t.bufSeed = s.bufSeed) (hf : s.fresh ≤ t.fresh) : t.Inv where
  memWf := hm ▸ h.memWf
  memInBuffers := hm ▸ h.memInBuffers
  ocntLe := ho ▸ h.ocntLe
  seedLt := hb ▸ h.seedLt.trans_le hf

/-- A write of a run inside one buffer keeps the invariant's two facts about memory. -/
theorem State.Inv.write {s : State} (h : s.Inv) {a : Nat} {bs : List Byte} (hr : runInBuffer a bs.length) :
    State.Inv { s with mem := s.mem.write a bs } where
  memWf := Memory.write_wf h.memWf a bs
  memInBuffers c hc := (Memory.mem_write hc).elim (h.memInBuffers c) fun hab => hr.inBuffer hab.1 hab.2
  ocntLe := h.ocntLe
  seedLt := h.seedLt

/-- The pending writes of a command keep the invariant. -/
theorem PendingWrites.inv {s p : State} (hp : PendingWrites s p) (h : s.Inv) : p.Inv := by
  have hb : p.bufSeed = s.bufSeed := (congrArg State.bufSeed hp.kept :)
  have hf : p.fresh = s.fresh := (congrArg State.fresh hp.kept :)
  have ho : p.ocnt.toNat ≤ obufSize := hp.ocnt.elim (·.trans h.ocntLe) id
  have hseed : p.bufSeed < p.fresh := by rw [hb, hf]; exact h.seedLt
  rcases hp.mem with hm | ⟨a, bs, hm, hr⟩
  · exact ⟨hm ▸ h.memWf, hm ▸ h.memInBuffers, ho, hseed⟩
  · exact ⟨hm ▸ (h.write hr).memWf, hm ▸ (h.write hr).memInBuffers, ho, hseed⟩

/-- Every command keeps the invariant. -/
theorem exec_inv {i : Instr} {s t : State} (h : s.Inv) (he : exec i s = .next t) : t.Inv := by
  rcases exec_shape i s with ⟨hs, _⟩ | ⟨hs, _⟩ | ⟨hs, hp⟩ <;> cases he.symm.trans hs
  · exact h.congr rfl rfl rfl le_rfl
  · exact h.congr rfl rfl rfl le_rfl
  · exact (hp.inv h).congr rfl rfl rfl le_rfl

/-- So does every completion. -/
theorem complete_inv {s t : State} (h : s.Inv) (hc : complete s = .next t) : t.Inv := by
  cases hd : decode s.cmdLatch with
  | command i => exact exec_inv h ((complete_command hd).symm.trans hc)
  | illegal r =>
    cases (complete_illegal hd).symm.trans hc
    exact h.congr rfl rfl rfl le_rfl

/-- A register write changes neither memory nor OCNT nor the draw of the unwritten bytes (10_state.md R50). -/
theorem State.writeReg_inv {s : State} (h : s.Inv) (v : Word) (r : Reg) : (s.writeReg v r).Inv := by
  cases r with
  | cmd => exact h.congr rfl rfl rfl (Nat.le_succ _)
  | _ => exact h.congr rfl rfl rfl le_rfl

/-- The byte of a PBUF or FBUF write lies in its buffer (20_memory.md R71, R73). -/
theorem runInBuffer_of_targetOf {off : Offset} {w : Width}
    (h : targetOf off w = some .pbuf ∨ targetOf off w = some .fbuf) : runInBuffer off.toNat 1 := by
  unfold runInBuffer pbufBase pbufSize fbufBase fbufSize
  cases w with
  | w8 =>
    rw [targetOf_w8] at h
    split_ifs at h
    · omega
    · omega
    · simp at h
    · simp at h
  | w16 => simp [targetOf] at h
  | w32 => simp [targetOf] at h
  | other => simp [targetOf] at h

/-- A write of a legal access keeps the invariant. -/
theorem State.writeTarget_inv {s : State} (h : s.Inv) {off : Offset} {w : Width} {t : Target}
    (ht : targetOf off w = some t) (v : Word) : (s.writeTarget off v t).Inv := by
  cases t with
  | reg r => exact s.writeReg_inv h v r
  | pbuf => exact h.write (runInBuffer_of_targetOf (.inl ht))
  | fbuf => exact h.write (runInBuffer_of_targetOf (.inr ht))
  | obuf => exact h

/-- Every host access keeps the invariant. -/
theorem State.hostAccess_inv {s : State} (h : s.Inv) (a : Access) : (s.hostAccess a).Inv := by
  obtain ⟨off, w, -, ha | ⟨v, ha⟩⟩ := s.hostAccess_cases a <;> rw [ha]
  · rcases s.hostRead_cases off w with ⟨r, hr⟩ | ⟨r, hr⟩ <;> rw [hr]
    · exact h.congr rfl rfl rfl le_rfl
    · exact h.congr rfl rfl rfl (Nat.le_succ _)
  · rcases s.hostWrite_cases off w v with ⟨-, hw⟩ | ⟨t, -, -, -, hw⟩ | ⟨t, ht, -, hw⟩ <;> rw [hw]
    · exact h.congr rfl rfl rfl le_rfl
    · exact h.congr rfl rfl rfl le_rfl
    · exact (s.writeTarget_inv h ht v).congr rfl rfl rfl le_rfl

/-- In the reset state no byte is listed, OCNT is 0 and the first draw is behind (10_state.md R51, R52). -/
theorem State.reset_inv : State.reset.Inv := ⟨List.Pairwise.nil, nofun, Nat.zero_le _, Nat.zero_lt_one⟩

/-- Every pending input keeps the invariant. -/
theorem State.takeInput_inv {s : State} (h : s.Inv) (i : Input) (rest : List Input) : (s.takeInput i rest).Inv := by
  have hpass (l : List Input) : (s.passAccess l).Inv := h.congr rfl rfl rfl le_rfl
  cases i with
  | access a => exact State.hostAccess_inv (hpass rest) a
  | poll => exact State.hostAccess_inv (hpass _) (.read statusOffset .w32)
  | reset =>
    exact ⟨State.reset_inv.memWf, State.reset_inv.memInBuffers, State.reset_inv.ocntLe, Nat.lt_succ_self s.fresh⟩

end Sys2Proof.Machine
end

section
/-! PROOFS. The invariant: it holds in the reset state and every step keeps it (10_state.md section 1, 20_memory.md
section 1). -/

open Sys2Proof Sys2Proof.Machine

namespace Sys2Proof.Claims

/-- Settles O24: the reset state lists no byte and has OCNT = 0. -/
theorem invariantAtReset : Obligations.InvariantAtReset := State.reset_inv

/-- Settles O25: a completion keeps the invariant by what a command can write, an input by what an access can reach, and the
idle step changes nothing. -/
theorem stepKeepsInvariant : Obligations.StepKeepsInvariant := by
  intro s t h hstep
  rcases step_cases s with ⟨-, hs⟩ | ⟨-, -, hs⟩ | ⟨i, rest, -, -, hs⟩
  · exact complete_inv h (hs.symm.trans hstep)
  · cases hs.symm.trans hstep
    exact h
  · cases hs.symm.trans hstep
    exact s.takeInput_inv h i rest

end Sys2Proof.Claims
end

section
/-! SUPPORT. The CRC generator over zeros, over the exclusive-or of two sequences, and over its own value
(41_checksum_crc.md R131, R139). -/

namespace Sys2Proof.Machine

/-- From 0 the generator stays at 0 over zero bytes. -/
theorem crcFrom_replicate_zero (n : Nat) : crcFrom 0 (List.replicate n 0) = 0 := by
  induction n with
  | zero => rfl
  | succ n ih => rw [List.replicate_succ, crcFrom_cons, crcStep_zero, ih]

/-- The sum of zero bytes is 0. -/
theorem checksumFrom_replicate_zero (n : Nat) : checksumFrom 0 (List.replicate n 0) = 0 := by
  induction n with
  | zero => rfl
  | succ n ih => rw [List.replicate_succ, checksumFrom_cons, add_zero, ih]

/-- The generator is linear over GF(2) in its start value and its bytes together. -/
theorem crcFrom_zipWith_xor (c d : Half) {xs ys : List Byte} (h : xs.length = ys.length) :
    crcFrom (c ^^^ d) (List.zipWith (· ^^^ ·) xs ys) = crcFrom c xs ^^^ crcFrom d ys := by
  induction xs generalizing c d ys with
  | nil =>
    cases ys with
    | nil => rfl
    | cons y ys => cases h
  | cons x xs ih =>
    cases ys with
    | nil => cases h
    | cons y ys =>
      rw [List.zipWith_cons_cons, crcFrom_cons, crcFrom_cons, crcFrom_cons, crcStep_xor, ih _ _ (Nat.succ.inj h)]

/-- The exclusive-or of a value with its high byte in place leaves its low byte. -/
theorem append_xor_high (hi lo : Byte) : (hi ++ lo) ^^^ (hi ++ 0#8) = 0#8 ++ lo := by
  rw [BitVec.xor_append, BitVec.xor_self, BitVec.xor_zero]

/-- The generator fed its own value, high byte first, comes to 0: the first byte cancels the high byte and moves the low byte
up, and the second cancels that. -/
theorem crcFrom_own_value (c : Half) : crcFrom c [c.extractLsb' 8 8, c.extractLsb' 0 8] = 0 := by
  have hhigh (hi lo : Byte) : crcStep (hi ++ lo) hi = lo ++ 0#8 := by
    rw [crcStep, append_xor_high, crcShifts_low]
  have hlow (lo : Byte) : crcStep (lo ++ 0#8) lo = 0 := by
    rw [crcStep, BitVec.xor_self]
    rfl
  have hc : c.extractLsb' 8 8 ++ c.extractLsb' 0 8 = c := BitVec.extractLsb'_append_extractLsb' (w := 8) (len := 8)
  calc crcFrom c [c.extractLsb' 8 8, c.extractLsb' 0 8]
      = crcStep (crcStep (c.extractLsb' 8 8 ++ c.extractLsb' 0 8) (c.extractLsb' 8 8)) (c.extractLsb' 0 8) := by
        rw [hc, crcFrom_cons, crcFrom_cons, crcFrom_nil]
    _ = 0 := by rw [hhigh, hlow]

end Sys2Proof.Machine
end

section
/-! PROOFS. The CRC generator: its laws of R131 and the residue law (41_checksum_crc.md sections 1 and 4). -/

open Sys2Proof Sys2Proof.Machine

namespace Sys2Proof.Claims

/-- Settles O30: the fold over a joined sequence, its value over zeros and its linearity, each from the start value 0. -/
theorem crc16FoldZeroAndLinear : Obligations.Crc16FoldZeroAndLinear :=
  ⟨rfl, fun xs b => crcFrom_append 0 xs [b], crcFrom_replicate_zero, fun _ _ h => crcFrom_zipWith_xor 0 0 h⟩

/-- Settles O31: the generator goes on from `crc16 d` over the two bytes of that value. -/
theorem crcResidue : Obligations.CrcResidue := fun d =>
  (crcFrom_append 0 d _).trans (crcFrom_own_value (crc16 d))

end Sys2Proof.Claims
end

section
/-! SUPPORT. FRM_DECODE of the frames it accepts, what an accepted payload leaves in PBUF, and FRM_DECODE of the frame that
FRM_ENCODE has stored (42_block_codec.md R157, R159, R160). -/

namespace Sys2Proof.Machine

variable {s : State}

/-- A payload of PBUF bytes is padded to the header's size (42_block_codec.md R151). -/
theorem paddedPayload_pbufBytes_length {h : Byte} {pad : Pad} {n : Nat} (hn : n ≤ payloadSize h) :
    (paddedPayload h pad (s.pbufBytes n)).length = payloadSize h :=
  paddedPayload_length ((State.bytesAt_length ..).le.trans hn)

/-- FRM_DECODE of a control frame (42_block_codec.md R157). -/
theorem exec_frmDecode_of_control (hf : s.flen.toNat = 1) (hc : isControl (s.fbufByte 0) = true) :
    exec .frmDecode s = .next (s.acceptControl (s.fbufByte 0)).finishOk := by
  have hv : s.frameVerdict = .control (s.fbufByte 0) := by simp [State.frameVerdict, hf, hc]
  simp [exec, execFrmDecode, hv]

/-- FRM_DECODE of a data frame that passes every check (42_block_codec.md R157). -/
theorem exec_frmDecode_of_data (hl : headerLegal s.variant (s.fbufByte 0) = true)
    (hf : s.flen.toNat = frameLength s.variant (s.fbufByte 0)) (hk : s.fbufByte 2 = 0xFF - s.fbufByte 1)
    (ht : s.fbufBytes (3 + payloadSize (s.fbufByte 0)) (trailerSize s.variant) =
      trailer s.variant (s.fbufBytes 3 (payloadSize (s.fbufByte 0)))) :
    exec .frmDecode s =
      .next (s.acceptData (s.fbufByte 0) (s.fbufByte 1) (s.fbufBytes 3 (payloadSize (s.fbufByte 0)))).finishOk := by
  have hv : s.frameVerdict = .data (s.fbufByte 0) (s.fbufByte 1) (s.fbufBytes 3 (payloadSize (s.fbufByte 0))) := by
    rw [State.frameVerdict_data (isDataHeader_of_headerLegal hl) hl hf, dataVerdict, if_neg (not_not.2 hk),
      if_neg (not_not.2 ht)]
  simp [exec, execFrmDecode, hv]

/-- FRM_DECODE of a data frame that stands in FBUF delivers the frame's own fields (30_encoding.md R107). -/
theorem exec_frmDecode_of_dataFrame {h sq : Byte} {pay : List Byte} (hl : headerLegal s.variant h = true)
    (hp : pay.length = payloadSize h) (hf : s.flen.toNat = (dataFrame s.variant h sq pay).length)
    (hb : s.bytesAt fbufBase (dataFrame s.variant h sq pay).length = dataFrame s.variant h sq pay) :
    exec .frmDecode s = .next (s.acceptData h sq pay).finishOk := by
  obtain ⟨h0, h1, h2, hpay, htr⟩ := State.fbuf_dataFrame hb
  rw [hp] at hpay htr
  rw [dataFrame_length, hp] at hf
  have hexec := exec_frmDecode_of_data (s := s) (by rwa [h0]) (by rw [h0]; exact hf) (by rw [h1, h2])
    (by rw [h0, hpay, htr])
  rwa [h0, h1, hpay] at hexec

/-- FRM_DECODE of the frame that FRM_ENCODE has stored (42_block_codec.md R159). -/
theorem exec_frmDecode_storeFrame {h : Byte} (sq : Byte) {pay : List Byte} (hl : headerLegal s.variant h = true)
    (hp : pay.length = payloadSize h) :
    exec .frmDecode (s.storeFrame (dataFrame s.variant h sq pay)).finishOk =
      .next ((s.storeFrame (dataFrame s.variant h sq pay)).finishOk.acceptData h sq pay).finishOk := by
  refine exec_frmDecode_of_dataFrame hl hp (s.storeFrame_flen_toNat ?_) (s.bytesAt_storeFrame _)
  rw [dataFrame_length, hp]
  exact frameLength_le s.variant h

/-- A payload length that PBUF allows fits PLEN's 11 bits (10_state.md R42). -/
theorem toNat_ofNat_of_le_pbufSize {n : Nat} (h : n ≤ pbufSize) : (BitVec.ofNat 11 n).toNat = n := by
  unfold pbufSize at h
  exact (BitVec.toNat_ofNat ..).trans (Nat.mod_eq_of_lt (by omega))

/-- An accepted payload stands in PBUF (42_block_codec.md R157). -/
theorem State.byteAt_acceptData (s : State) (h sq : Byte) {pay : List Byte} {i : Nat} (hi : i < pay.length) :
    (s.acceptData h sq pay).finishOk.byteAt (pbufBase + i) = pay[i] :=
  State.byteAt_write_inside (s := s) (t := (s.acceptData h sq pay).finishOk) rfl rfl hi

/-- Each byte of a run that reads as a list is the list's element. -/
theorem State.byteAt_of_bytesAt {a n i : Nat} {bs : List Byte} (hb : s.bytesAt a n = bs) (hi : i < bs.length) :
    s.byteAt (a + i) = bs[i] := by
  subst hb
  exact (State.bytesAt_getElem s a n i hi).symm

/-- Z0 of a payload read from a buffer says that its first byte is zero (42_block_codec.md R160). -/
theorem payloadZero_bytesAt (s : State) (a : Nat) {n : Nat} (hn : 0 < n) :
    payloadZero (s.bytesAt a n) = true ↔ s.byteAt a = 0 := by
  have hhead : (s.bytesAt a n).head? = some (s.byteAt a) := by
    rw [List.head?_eq_getElem?, List.getElem?_eq_getElem (by simpa using hn), State.bytesAt_getElem, Nat.add_zero]
  simp [payloadZero, hhead, nul]

/-- With PLEN = 0 and the pad NUL the payload of an SOH frame is 128 zero bytes (42_block_codec.md R151). -/
theorem paddedPayload_soh_nul (s : State) : paddedPayload soh .nul (s.pbufBytes 0) = List.replicate 128 0 := by
  simp [paddedPayload, State.pbufBytes, State.bytesAt, payloadSize, padByte, nul]

end Sys2Proof.Machine
end

section
/-! PROOFS. FRM_DECODE of right frames, and the round trip through FRM_ENCODE and FRM_DECODE (42_block_codec.md sections 2
and 3). -/

open Sys2Proof Sys2Proof.Machine

namespace Sys2Proof.Claims

/-- Settles O39: FLEN = 1 and a control byte are the one check of a control frame. -/
theorem frmDecodeAcceptsControl : Obligations.FrmDecodeAcceptsControl := by
  refine ⟨plainWord_of_opMap rfl rfl, fun s hf hc => ?_⟩
  have hflen : s.flen.toNat = 1 := congrArg BitVec.toNat hf
  exact ⟨_, exec_frmDecode_of_control hflen (isControl_iff.2 hc), rfl, rfl, rfl, rfl, rfl, State.byteAt_congr rfl rfl⟩

/-- Settles O40: the hypotheses are the checks of a data frame, and the payload accepted is FBUF[3..3+P). -/
theorem frmDecodeAcceptsData : Obligations.FrmDecodeAcceptsData := by
  rintro s _ rfl hh hf hk ht
  have hlen : (s.fbufBytes 3 (sizeFor (s.byteAt 0x800))).length = sizeFor (s.byteAt 0x800) := State.bytesAt_length ..
  have hexec := exec_frmDecode_of_data (headerLegal_iff.2 hh) (hf.trans (frameLength_eq ..).symm) hk
    (by rw [trailerSize_eq_trailerOf, State.fbufBytes, ← Nat.add_assoc]; exact ht)
  refine ⟨_, hexec, rfl, rfl, ?_, fun i hi => ?_, ?_, ?_, rfl, rfl, rfl⟩
  · exact (toNat_ofNat_of_le_pbufSize (hlen.trans_le (payloadSize_le _))).trans hlen
  · exact (s.byteAt_acceptData _ _ (hlen.symm ▸ hi)).trans (State.bytesAt_getElem ..)
  · exact hlen ▸ State.byteAt_write_outside (s := s) rfl rfl
  · exact payloadZero_bytesAt s _ (payloadSize_pos _)

/-- Settles O41: the stored frame passes every check of FRM_DECODE, which puts the padded payload back into PBUF. -/
theorem frameRoundTrip : Obligations.FrameRoundTrip := by
  intro s h sq pad hh hp
  have hl := headerLegal_iff.2 hh
  have hencode := exec_frmEncode_of_legal (sq := sq) (pad := pad) hl hp
  have hpay := paddedPayload_pbufBytes (s := s) (pad := pad) hp
  have hlen := paddedPayload_pbufBytes_length (s := s) (pad := pad) hp
  generalize paddedPayload h pad (s.pbufBytes s.plen.toNat) = pay at hencode hpay hlen
  refine ⟨_, _, hencode, exec_frmDecode_storeFrame sq hl hlen, rfl, rfl, rfl, ?_, fun i hi => ?_⟩
  · exact (toNat_ofNat_of_le_pbufSize (hlen.trans_le (payloadSize_le h))).trans hlen
  · refine (State.byteAt_acceptData _ h sq (hlen.symm ▸ hi)).trans ?_
    simp only [hpay, List.getElem_map, List.getElem_range, padByte_eq]
    rfl

/-- Settles O42: the padded payload is 128 zero bytes, whose checksum and CRC are zero, and the frame decodes to it. -/
theorem endOfBatchBlock : Obligations.EndOfBatchBlock := by
  intro s hp
  have hl : headerLegal s.variant soh = true := headerLegal_iff.2 (.inl rfl)
  have hencode := exec_frmEncode_of_legal (s := s) (sq := 0) (pad := .nul) hl (by simp [hp])
  have hplen : s.plen.toNat = 0 := congrArg BitVec.toNat hp
  rw [hplen, paddedPayload_soh_nul] at hencode
  have hlen : (List.replicate 128 (0 : Byte)).length = payloadSize soh := List.length_replicate
  obtain ⟨-, -, -, hdata, htrail⟩ :=
    State.fbuf_dataFrame (s.bytesAt_storeFrame (dataFrame s.variant soh 0 (List.replicate 128 0)))
  rw [List.length_replicate] at hdata htrail
  refine ⟨_, _, hencode, fun i hi => ?_, ?_, fun hv => ?_, exec_frmDecode_storeFrame 0 hl hlen, rfl, rfl, rfl, rfl⟩
  · exact (State.byteAt_of_bytesAt hdata (by simpa using hi)).trans (List.getElem_replicate ..)
  · by_cases hv : s.variant = .checksum
    · exact (State.bytesAt_trailer_checksum hv htrail).trans (checksumFrom_replicate_zero 128)
    · exact (State.bytesAt_trailer_crc hv htrail).1.trans (congrArg _ (crcFrom_replicate_zero 128))
  · exact (State.bytesAt_trailer_crc hv htrail).2.trans (congrArg _ (crcFrom_replicate_zero 128))

end Sys2Proof.Claims
end

section
/-! SUPPORT. What a command keeps, read off its shape, and a step with a command in flight said once: its completion, a
reset, or an access that reaches nothing the command reads (00_scope.md R10, 20_memory.md R77, R85). -/

namespace Sys2Proof.Machine

variable {i : Instr} {s t : State}

/-- A command leaves every field that no command writes, RESULT, ERRS and BUSY apart. -/
theorem exec_keepsUnwritten (h : exec i s = .next t) :
    keepsUnwritten s { t with result := s.result, errs := s.errs, busy := s.busy } := by
  rcases exec_shape i s with ⟨he, _⟩ | ⟨he, _⟩ | ⟨he, hp⟩ <;> cases h.symm.trans he
  · rfl
  · rfl
  · have hk := congrArg (fun p : State => { p with result := s.result, errs := s.errs, busy := s.busy }) hp.kept
    exact hk

/-- A command that completes with OK leaves ERRS (00_scope.md R10). -/
theorem exec_errs_of_result_ok (h : exec i s = .next t) (hr : t.result = .ok) : t.errs = s.errs := by
  rcases exec_shape i s with ⟨he, hc⟩ | ⟨he, _⟩ | ⟨he, hp⟩ <;> cases h.symm.trans he
  · exact absurd hr hc
  · cases hr
  · exact (congrArg State.errs hp.kept :)

/-- ERRS after a command: as before when it completes with OK, else 1 (00_scope.md R10). -/
theorem exec_errs (h : exec i s = .next t) : t.errs = if t.result = .ok then s.errs else true := by
  split
  · exact exec_errs_of_result_ok h ‹_›
  · exact exec_errs_of_result_ne_ok h ‹_›

/-- A command ends with BUSY = 0 (00_scope.md R10). -/
theorem exec_busy (h : exec i s = .next t) : t.busy = false := by
  obtain ⟨t', h', hb⟩ := exec_next i s
  cases h.symm.trans h'
  exact hb

/-- A completion that fails sets ERRS (00_scope.md R10, 30_encoding.md R104). -/
theorem complete_errs_of_result_ne_ok (h : complete s = .next t) (hr : t.result ≠ .ok) : t.errs = true := by
  cases hd : decode s.cmdLatch with
  | command i => exact exec_errs_of_result_ne_ok ((complete_command hd).symm.trans h) hr
  | illegal r =>
    cases (complete_illegal hd).symm.trans h
    rfl

/-- A due completion of a decoded command is that command (10_state.md R46). -/
theorem step_command (hb : s.busy = true) (hl : s.lat = 0 ∨ s.inputs = []) (hd : decode s.cmdLatch = .command i) :
    step s = exec i s :=
  (step_due ((completionDue_iff s).2 ⟨hb, hl⟩)).trans (complete_command hd)

/-- A state agrees with itself whatever it holds in the fields that no command reads. -/
theorem State.sameCommandState_withAux (t : State) (e o : Bool) (l : Nat) (ins : List Input) (r : Option Response)
    (f : Nat) : t.sameCommandState (t.withAux e o l ins r f) := rfl

/-- A state that agrees with `t` up to the fields no command reads agrees with it whatever `t` holds in them. -/
theorem State.sameCommandState_of_withAux {u : State} {e o : Bool} {l : Nat} {ins : List Input} {r : Option Response}
    {f : Nat} (h : (t.withAux e o l ins r f).sameCommandState u) : t.sameCommandState u := by
  have hback := congrArg (fun v : State => v.withAux t.errs t.ovr t.lat t.inputs t.response t.fresh) h
  exact hback

/-- With a command in flight a step is its completion, a reset, or an input that takes one access off the latency and
changes nothing else the command reads. -/
theorem step_busy_cases (hb : s.busy = true) :
    step s = complete s ∨ (∃ rest, s.inputs = .reset :: rest ∧ step s = .next (s.resetStep rest)) ∨
    (∃ n e o ins r f, s.lat = n + 1 ∧ step s = .next (s.withAux e o n ins r f) ∧ ∀ j ∈ ins, j ∈ s.inputs) := by
  rcases step_cases s with ⟨-, hs⟩ | ⟨hd, hi, -⟩ | ⟨i, rest, hd, hi, hs⟩
  · exact .inl hs
  · have hdue := (completionDue_iff s).2 ⟨hb, .inr hi⟩
    exact Bool.noConfusion (hd.symm.trans hdue)
  · by_cases hr : i = .reset
    · subst hr
      exact .inr (.inl ⟨rest, hi, hs⟩)
    · obtain ⟨e, o, ins, r, f, ht, hins⟩ := State.takeInput_busy hb hr rest
      have hl : s.lat ≠ 0 := fun hl => Bool.noConfusion (hd.symm.trans ((completionDue_iff s).2 ⟨hb, .inl hl⟩))
      exact .inr (.inr ⟨s.lat - 1, e, o, ins, r, f, (Nat.succ_pred hl).symm, ht ▸ hs, hi ▸ hins⟩)

/-- The latency bounds how many steps BUSY stays 1 (70_reset_and_hazards.md R280). -/
theorem exists_run_busy_false (n : Nat) (hl : s.lat = n) (hb : s.busy = true) :
    ∃ k t, 1 ≤ k ∧ k ≤ n + 1 ∧ Host.Core.run core k s = .next t ∧ t.busy = false := by
  induction n generalizing s with
  | zero =>
    obtain ⟨t, hc, ht⟩ := complete_next s
    exact ⟨1, t, le_rfl, le_rfl, run_one ((step_due ((completionDue_iff s).2 ⟨hb, .inl hl⟩)).trans hc), ht⟩
  | succ n ih =>
    rcases step_busy_cases hb with hs | ⟨rest, -, hs⟩ | ⟨m, e, o, ins, r, f, hm, hs, -⟩
    · obtain ⟨t, hc, ht⟩ := complete_next s
      exact ⟨1, t, le_rfl, by omega, run_one (hs.trans hc), ht⟩
    · exact ⟨1, _, le_rfl, by omega, run_one hs, rfl⟩
    · obtain ⟨k, t, -, hk, hrun, ht⟩ := ih (s := s.withAux e o m ins r f) (Nat.succ.inj (hm.symm.trans hl)) hb
      exact ⟨k + 1, t, by omega, by omega, (run_succ k hs).trans hrun, ht⟩

/-- A run of at most `n + 1` steps ends with BUSY = 0 in what completing at once leaves, ERRS set when that is an error. -/
def CompletesWithin (n : Nat) (s : State) : Prop :=
  ∃ t k u, complete s = .next t ∧ k ≤ n ∧ Host.Core.run core (k + 1) s = .next u ∧ u.busy = false ∧
    t.sameCommandState u ∧ (t.result ≠ .ok → u.errs = true)

theorem completesWithin_of_step_complete (hs : step s = complete s) (n : Nat) : CompletesWithin n s := by
  obtain ⟨t, hc, ht⟩ := complete_next s
  exact ⟨t, 0, t, hc, Nat.zero_le n, run_one (hs.trans hc), ht, rfl, complete_errs_of_result_ne_ok hc⟩

/-- A step that changes nothing the command reads puts the completion off by one. -/
theorem completesWithin_of_step_withAux {e o : Bool} {l n : Nat} {ins : List Input} {r : Option Response} {f : Nat}
    (hs : step s = .next (s.withAux e o l ins r f)) (h : CompletesWithin n (s.withAux e o l ins r f)) :
    CompletesWithin (n + 1) s := by
  obtain ⟨t', k, u, hc', hk, hrun, hu, hsame, herrs⟩ := h
  obtain ⟨t, hc, haux⟩ := complete_withAux s e o l ins r f
  cases hc'.symm.trans haux
  exact ⟨t, k + 1, u, hc, Nat.succ_le_succ hk, (run_succ _ hs).trans hrun, hu, State.sameCommandState_of_withAux hsame,
    herrs⟩

/-- Without a reset the command in flight completes within its latency (70_reset_and_hazards.md R280). -/
theorem completesWithin_of_no_reset (n : Nat) (hl : s.lat = n) (hb : s.busy = true) (hi : ∀ i ∈ s.inputs, i ≠ .reset) :
    CompletesWithin n s := by
  induction n generalizing s with
  | zero => exact completesWithin_of_step_complete (step_due ((completionDue_iff s).2 ⟨hb, .inl hl⟩)) 0
  | succ n ih =>
    rcases step_busy_cases hb with hs | ⟨rest, hr, -⟩ | ⟨m, e, o, ins, r, f, hm, hs, hins⟩
    · exact completesWithin_of_step_complete hs (n + 1)
    · exact absurd rfl (hi .reset (by simp [hr]))
    · refine completesWithin_of_step_withAux hs (ih ?_ hb fun i h => hi i (hins i h))
      exact Nat.succ.inj (hm.symm.trans hl)

/-- Polls of a command in flight run its latency out and change nothing the command reads (30_encoding.md R111). -/
theorem exists_run_polls (n : Nat) {rest : List Input} (hl : s.lat = n) (hb : s.busy = true)
    (hi : s.inputs = .poll :: rest) :
    ∃ r, Host.Core.run core n s = .next (s.withAux s.errs s.ovr 0 (.poll :: rest) r s.fresh) := by
  induction n generalizing s with
  | zero =>
    refine ⟨s.response, (run_zero s).trans (congrArg _ ?_)⟩
    rw [← hi, ← hl]
    rfl
  | succ n ih =>
    have hd : s.completionDue = false := by simp [State.completionDue, hl, hi]
    have hstep := (step_input hd hi).trans (congrArg _ (State.takeInput_poll_busy hb rest))
    obtain ⟨r, hrun⟩ := ih (s := (s.passAccess (.poll :: rest)).respond (.word s.statusWord)) (by simp [hl]) hb rfl
    exact ⟨r, (run_succ n hstep).trans hrun⟩

/-- A command in flight with a POLL pending runs to its own effect, the POLL still pending (30_encoding.md R111). -/
theorem exists_run_command (hb : s.busy = true) (hd : decode s.cmdLatch = .command i) (l : Nat) (rest : List Input)
    (r : Option Response) (f : Nat) :
    ∃ t k r', exec i s = .next t ∧ Host.Core.run core k (s.withAux s.errs s.ovr l (.poll :: rest) r f) =
      .next (t.withAux t.errs t.ovr 0 (.poll :: rest) r' f) := by
  obtain ⟨r', hpolls⟩ := exists_run_polls (s := s.withAux s.errs s.ovr l (.poll :: rest) r f) l rfl hb rfl
  obtain ⟨t, ht, haux⟩ := exec_withAux i s s.errs s.ovr 0 (.poll :: rest) r' f
  have ho : t.ovr = s.ovr := (congrArg State.ovr (exec_keepsUnwritten ht) :)
  rw [← exec_errs ht] at haux
  have hcomplete := (step_command (s := s.withAux s.errs s.ovr 0 (.poll :: rest) r' f) hb (.inl rfl) hd).trans haux
  exact ⟨t, l + 1, r', ht, ho ▸ (run_add 1 hpolls).trans (run_one hcomplete)⟩

/-- The step that takes a CMD write with BUSY = 0 (10_state.md R36, R46). -/
theorem step_cmd_write (hb : s.busy = false) {v : Word} {rest : List Input}
    (hi : s.inputs = .access (.write32 cmdOffset v) :: rest) :
    step s = .next
      ({ s with cmdLatch := v, busy := true }.withAux s.errs s.ovr (Config.extraSteps s.fresh) rest (some .okay)
        (s.fresh + 1)) := by
  have hd : s.completionDue = false := by simp [State.completionDue, hb]
  refine (step_input hd hi).trans (congrArg _ ?_)
  exact State.hostWrite_reg_idle (s := s.passAccess rest) hb .cmd v

/-- The POLL behind a completed command reads STATUS and is over (30_encoding.md R111). -/
theorem step_poll_idle (hb : s.busy = false) (rest : List Input) (r : Option Response) (f : Nat) :
    step (s.withAux s.errs s.ovr 0 (.poll :: rest) r f) =
      .next (s.withAux s.errs s.ovr 0 rest (some (.word s.statusWord)) f) := by
  have hd : (s.withAux s.errs s.ovr 0 (.poll :: rest) r f).completionDue = false := by
    simp [State.completionDue, State.withAux, hb]
  exact (step_input hd rfl).trans (congrArg _
    (State.takeInput_poll_idle (s := s.withAux s.errs s.ovr 0 (.poll :: rest) r f) hb rest))

end Sys2Proof.Machine
end

section
/-! PROOFS. Steps: what each step is, that none stops, and how long a command stays in flight (20_memory.md section 6,
70_reset_and_hazards.md section 3). -/

open Sys2Proof Sys2Proof.Machine

namespace Sys2Proof.Claims

/-- Settles O6: a due completion is the step, and it decodes CMDLATCH. -/
theorem stepRunsDecodedCommand : Obligations.StepRunsDecodedCommand := by
  intro s hb hl
  have hs := step_due ((completionDue_iff s).2 ⟨hb, hl⟩)
  exact ⟨hs, fun i => step_command hb hl, fun r hr => hs.trans (complete_illegal hr)⟩

/-- Settles O7: the step is `State.takeInput` of the oldest input, and with none and BUSY = 0 it is idle. -/
theorem pendingInputsTakenInOrder : Obligations.PendingInputsTakenInOrder := by
  refine ⟨fun s a rest hi hm => step_of_inputsMayCome hi hm, fun s rest hi hm => ?_, fun s hi hb => ?_⟩
  · refine (step_of_inputsMayCome hi hm).trans (congrArg _ ?_)
    by_cases hb : s.busy = true
    · rw [if_pos hb]
      exact State.takeInput_poll_busy hb rest
    · rw [if_neg hb]
      exact State.takeInput_poll_idle (Bool.eq_false_iff.2 hb) rest
  · exact step_idle (by simp [State.completionDue, hb]) hi

/-- Settles O8: a completion answers a next state, and the other two kinds of step are one by definition. -/
theorem noStepStops : Obligations.NoStepStops := by
  intro s
  rcases step_cases s with ⟨-, hs⟩ | ⟨-, -, hs⟩ | ⟨i, rest, -, -, hs⟩
  · obtain ⟨t, hc, -⟩ := complete_next s
    exact ⟨t, hs.trans hc⟩
  · exact ⟨_, hs⟩
  · exact ⟨_, hs⟩

/-- Settles O9: each step completes the command, is a reset, or takes one off the latency. -/
theorem busyFallsWithinLatency : Obligations.BusyFallsWithinLatency := fun s hb => exists_run_busy_false s.lat rfl hb

/-- Settles O10: the accesses before the completion change only fields that no command reads. -/
theorem resultIndependentOfLatency : Obligations.ResultIndependentOfLatency := fun s hb hi =>
  completesWithin_of_no_reset s.lat rfl hb hi

/-- Settles O11: the CMD write issues the word, polls run the latency out, the completion is the command, and one more poll
reads BUSY = 0. -/
theorem bareCommandRunsToCompletion : Obligations.BareCommandRunsToCompletion := by
  intro s i rest hb hi
  have hissue := step_cmd_write hb hi
  obtain ⟨t, k, r, ht, hrun⟩ := exists_run_command (s := { s with cmdLatch := encode i, busy := true }) rfl
    (decodeOfEncode i) (Config.extraSteps s.fresh) rest (some .okay) (s.fresh + 1)
  have hbusy := exec_busy ht
  have hpoll := step_poll_idle hbusy rest r (s.fresh + 1)
  exact ⟨t, k + 1 + 1, _, ht, (run_succ _ hissue).trans ((run_add 1 hrun).trans (run_one hpoll)), rfl, hbusy,
    t.sameCommandState_withAux .., rfl, rfl, rfl⟩

/-- Settles O12: with no latency left the NOP completes before the write, which then takes effect; else the write is dropped
and the NOP completes with nothing pending. -/
theorem busyWriteRace : Obligations.BusyWriteRace := by
  intro s v hb hc hi
  have hd : decode s.cmdLatch = .command .nop := hc ▸ decodeOfEncode .nop
  by_cases hl : s.lat = 0
  · have hcomplete : step s = .next s.finishOk := step_command hb (.inl hl) hd
    have hwrite := (step_input (s := s.finishOk) rfl hi).trans
      (congrArg _ (State.hostWrite_reg_idle (s := s.finishOk.passAccess []) rfl .plen v))
    exact ⟨_, run_two hcomplete hwrite, rfl, rfl, fun _ => ⟨rfl, rfl⟩, (absurd hl ·)⟩
  · have hwrite := (step_of_inputsMayCome hi (.inr hl)).trans (congrArg _
      (State.hostWrite_dropped (s := s.passAccess []) hb (targetOf_reg (r := .plen).2 ⟨rfl, rfl⟩) (by decide) v))
    have hcomplete := step_command (s := (s.passAccess []).dropWrite.respond .okay) hb (.inr rfl) hd
    exact ⟨_, run_two hwrite hcomplete, rfl, rfl, (absurd · hl), fun _ => ⟨rfl, rfl⟩⟩

/-- Settles O23: the step is `State.resetStep`, which lists no byte and takes the next draw. -/
theorem resetDrawsBuffersAnew : Obligations.ResetDrawsBuffersAnew := fun s rest hi hm =>
  ⟨s.resetStep rest, step_of_inputsMayCome hi hm, rfl, rfl, rfl, Nat.lt_succ_self _, fun _ => rfl⟩

end Sys2Proof.Claims
end

section
/-! SUPPORT. Host accesses by what they reach: registers whatever BUSY is, buffer bytes, and every write as one write of the
window (20_memory.md R72 to R77, 10_state.md R30, R45). -/

namespace Sys2Proof.Machine

variable {s : State} {off : Offset}

/-- A legal access reaches something (20_memory.md R72, R73). -/
theorem exists_targetOf {w : Width} (h : legalAt off.toNat w = true) : ∃ t, targetOf off w = some t :=
  Option.isSome_iff_exists.1 ((targetOf_isSome off w).trans h)

/-- A legal 32-bit access is at a register's offset (20_memory.md R72). -/
theorem exists_reg_of_legal (h : legalAt off.toNat .w32 = true) : ∃ r : Reg, off = r.offset := by
  obtain ⟨t, ht⟩ := exists_targetOf h
  obtain ⟨r, -, rfl⟩ := Option.map_eq_some_iff.1 ht
  exact ⟨r, (targetOf_reg.1 ht).2⟩

/-- A legal 8-bit access reaches a buffer (20_memory.md R73). -/
theorem targetOf_of_legal_w8 (h : legalAt off.toNat .w8 = true) :
    targetOf off .w8 = some .pbuf ∨ targetOf off .w8 = some .fbuf ∨ targetOf off .w8 = some .obuf := by
  obtain ⟨t, ht⟩ := exists_targetOf h
  cases t with
  | reg r => exact nomatch (targetOf_reg.1 ht).1
  | pbuf => exact .inl ht
  | fbuf => exact .inr (.inl ht)
  | obuf => exact .inr (.inr ht)

/-- The registers other than ID, CFG and STATUS read free values while BUSY = 1 (20_memory.md R77). -/
theorem Reg.exactWhileBusy_eq_false {r : Reg} (hid : r.offset ≠ 0x000) (hcfg : r.offset ≠ 0x004)
    (hstatus : r.offset ≠ 0x00C) : r.exactWhileBusy = false := by
  cases r with
  | id => exact absurd rfl hid
  | cfg => exact absurd rfl hcfg
  | status => exact absurd rfl hstatus
  | _ => rfl

/-- ID, CFG and STATUS read their values whatever BUSY is (20_memory.md R77). -/
theorem State.hostRead_reg_exact (s : State) {r : Reg} (h : r.exactWhileBusy = true) :
    s.hostRead r.offset .w32 = s.respond (.word (s.regWord r)) := by
  simp only [State.hostRead, targetOf_reg.2 ⟨rfl, rfl⟩, s.readReg_exact h]

/-- The other registers read a free value while BUSY = 1 (20_memory.md R77). -/
theorem State.hostRead_reg_busy (hb : s.busy = true) {r : Reg} (h : r.exactWhileBusy = false) :
    s.hostRead r.offset .w32 = { s with fresh := s.fresh + 1 }.respond (.word (Config.busyReadWord s.fresh)) := by
  simp only [State.hostRead, targetOf_reg.2 ⟨rfl, rfl⟩, State.readReg_busy hb h]

/-- A legal 8-bit read is that of the buffer byte (20_memory.md R73). -/
theorem State.hostRead_byte (s : State) (h : legalAt off.toNat .w8 = true) : s.hostRead off .w8 = s.readByte off.toNat := by
  rcases targetOf_of_legal_w8 h with ht | ht | ht <;> simp only [State.hostRead, ht]

theorem State.readByte_busy (hb : s.busy = true) (a : Nat) :
    s.readByte a = { s with fresh := s.fresh + 1 }.respond (.byte (Config.busyReadByte s.fresh)) := by
  simp [State.readByte, hb]

theorem State.readByte_idle (hb : s.busy = false) (a : Nat) : s.readByte a = s.respond (.byte (s.byteAt a)) := by
  simp [State.readByte, hb]

/-- A legal 8-bit read with BUSY = 0 answers the byte (20_memory.md R76). -/
theorem State.hostRead_byte_idle (hb : s.busy = false) (h : legalAt off.toNat .w8 = true) :
    s.hostRead off .w8 = s.respond (.byte (s.byteAt off.toNat)) :=
  (s.hostRead_byte h).trans (State.readByte_idle hb _)

/-- A read leaves everything but the response and the count of draws (20_memory.md R82). -/
theorem State.exists_hostRead_eq (s : State) (off : Offset) (w : Width) :
    ∃ r f, s.hostRead off w = { s with response := r, fresh := f } := by
  rcases s.hostRead_cases off w with ⟨r, h⟩ | ⟨r, h⟩
  · exact ⟨_, _, h⟩
  · exact ⟨_, _, h⟩

/-- With BUSY = 0 the answer to a read does not depend on the last response or the draws (20_memory.md R82). -/
theorem State.hostRead_response_congr (hb : s.busy = false) (off : Offset) (w : Width) (r : Option Response) (f : Nat) :
    (State.hostRead { s with response := r, fresh := f } off w).response = (s.hostRead off w).response := by
  have hreg (x : Reg) : (State.readReg { s with response := r, fresh := f } x).response = (s.readReg x).response := by
    rw [State.readReg_idle hb, State.readReg_idle (s := { s with response := r, fresh := f }) hb]
    cases x <;> rfl
  have hbyte (a : Nat) : (State.readByte { s with response := r, fresh := f } a).response = (s.readByte a).response := by
    rw [State.readByte_idle hb, State.readByte_idle (s := { s with response := r, fresh := f }) hb]
    rfl
  unfold State.hostRead
  cases targetOf off w with
  | none => rfl
  | some t =>
    cases t with
    | reg x => exact hreg x
    | pbuf => exact hbyte _
    | fbuf => exact hbyte _
    | obuf => exact hbyte _

/-- Every write is one write of the window at its own offset and width. -/
theorem Access.exists_hostWrite {a : Access} (h : a.isWrite = true) :
    ∃ off v, off.toNat = a.offset ∧ ∀ s : State, s.hostAccess a = s.hostWrite off a.width v := by
  cases a with
  | read off w => cases h
  | write8 off v => exact ⟨off, v.setWidth 32, rfl, fun _ => rfl⟩
  | write16 off v => exact ⟨off, v.setWidth 32, rfl, fun _ => rfl⟩
  | write32 off v => exact ⟨off, v, rfl, fun _ => rfl⟩
  | writeOther off => exact ⟨off, 0, rfl, fun _ => rfl⟩

/-- While BUSY = 1 a legal write other than one to STATUS is dropped (20_memory.md R77). -/
theorem State.hostAccess_dropped (hb : s.busy = true) {a : Access} (hl : a.legal = true) (hw : a.isWrite = true)
    (ho : a.offset ≠ 0x00C) : s.hostAccess a = s.dropWrite.respond .okay := by
  obtain ⟨off, v, hoff, ha⟩ := Access.exists_hostWrite hw
  obtain ⟨t, ht⟩ := exists_targetOf (off := off) (w := a.width) (hoff ▸ hl)
  refine (ha s).trans (State.hostWrite_dropped hb ht (fun hs => ho ?_) v)
  obtain ⟨-, rfl⟩ := targetOf_reg.1 (hs ▸ ht)
  exact hoff.symm

/-- With BUSY = 0 an 8-bit write in PBUF or FBUF writes its byte (20_memory.md R76). -/
theorem State.hostWrite_byte (hb : s.busy = false)
    (ho : (0x400 ≤ off.toNat ∧ off.toNat ≤ 0x7FF) ∨ (0x800 ≤ off.toNat ∧ off.toNat ≤ 0xC04)) (b : Byte) :
    s.hostAccess (.write8 off b) = { s with mem := s.mem.write off.toNat [b] }.respond .okay := by
  have hv : (b.setWidth 32).setWidth 8 = b := BitVec.setWidth_setWidth_of_le b (by decide)
  rcases ho with ho | ho
  · have ht : targetOf off .w8 = some .pbuf := by rw [targetOf_w8, if_pos ho]
    exact (State.hostWrite_idle hb ht _).trans (by simp only [State.writeTarget, hv])
  · have ht : targetOf off .w8 = some .fbuf := by rw [targetOf_w8, if_neg (by omega), if_pos ho]
    exact (State.hostWrite_idle hb ht _).trans (by simp only [State.writeTarget, hv])

/-- With BUSY = 0 an 8-bit write in OBUF is ignored (20_memory.md R75). -/
theorem State.hostWrite_obuf (hb : s.busy = false) (h1 : 0x1000 ≤ off.toNat) (h2 : off.toNat ≤ 0x1801) (b : Byte) :
    s.hostAccess (.write8 off b) = s.respond .okay := by
  have ht : targetOf off .w8 = some .obuf := by
    rw [targetOf_w8, if_neg (by omega), if_neg (by omega), if_pos ⟨h1, h2⟩]
  exact State.hostWrite_idle hb ht _

/-- A buffer byte that no write has reached since reset reads this reset's free value (20_memory.md R78). -/
theorem State.byteAt_of_lookup_none {a : Nat} (h : s.mem.lookup a = none) :
    s.byteAt a = Config.unwrittenByte s.bufSeed a := by simp [State.byteAt, h]

/-! ## The codes of the fields (10_state.md R32, R34, R45, 60_exceptions.md R240) -/

theorem Mode.bit_eq_false_iff {m : Mode} : m.bit = false ↔ m = .binary := by cases m <;> decide

theorem Mode.bit_eq_true_iff {m : Mode} : m.bit = true ↔ m = .text := by cases m <;> decide

theorem Conv.bit_eq_false_iff {c : Conv} : c.bit = false ↔ c = .crlf := by cases c <;> decide

theorem Conv.bit_eq_true_iff {c : Conv} : c.bit = true ↔ c = .lf := by cases c <;> decide

/-- The bits of NSTATE, field by field (10_state.md R45). -/
theorem State.getLsbD_nstateWord (s : State) (i : Nat) :
    s.nstateWord.getLsbD i = if i < 8 then s.pb.getLsbD i else if i = 8 then s.pv else false := by
  have e : s.nstateWord.getLsbD i = BitVec.getLsbD (w := 23 + 1 + 8) (0#23 ++ BitVec.ofBool s.pv ++ s.pb) i := rfl
  rw [e]
  simp only [BitVec.getLsbD_append, BitVec.getLsbD_ofBool, BitVec.getLsbD_zero]
  rcases lt_trichotomy i 8 with h | rfl | h
  · simp [h]
  · simp
  · simp [show ¬i < 8 by omega, show ¬i - 8 < 1 by omega, show i ≠ 8 by omega]

/-- NSTATE's fields as read, reserved bits 0 (10_state.md R45). -/
theorem State.nstateWord_fields (s : State) :
    s.nstateWord.extractLsb' 0 8 = s.pb ∧ s.nstateWord.getLsbD 8 = s.pv ∧ s.nstateWord.extractLsb' 9 23 = 0 := by
  refine ⟨?_, s.getLsbD_nstateWord 8, ?_⟩
  · apply BitVec.eq_of_getLsbD_eq
    intro i hi
    simp [-BitVec.getLsbD_eq_getElem, s.getLsbD_nstateWord, hi]
  · apply BitVec.eq_of_getLsbD_eq
    intro i hi
    simp [-BitVec.getLsbD_eq_getElem, s.getLsbD_nstateWord, show ¬9 + i < 8 by omega, show 9 + i ≠ 8 by omega]

end Sys2Proof.Machine
end

section
/-! SUPPORT. A memory in canonical form is determined by what it holds at each offset (20_memory.md section 1, log
entry 1). -/

namespace Sys2Proof.Machine

/-- A memory holds nothing below all of its cells. -/
theorem Memory.lookup_eq_none_of_lt {m : Memory} {a : Nat} (h : ∀ c ∈ m, a < c.1) : m.lookup a = none := by
  induction m with
  | nil => rfl
  | cons c m ih =>
    rw [Memory.lookup, if_neg (h c List.mem_cons_self).ne']
    exact ih fun d hd => h d (List.mem_cons_of_mem c hd)

theorem Memory.lookup_cons_self (c : Host.Cell) (m : Memory) : Memory.lookup (c :: m) c.1 = some c.2 := by
  simp [Memory.lookup]

/-- A canonical memory's first cell is at the least offset it holds a byte at. -/
theorem Memory.head_le_of_lookup {c : Host.Cell} {m : Memory} {a : Nat} {b : Byte} (hm : Memory.wf (c :: m))
    (h : Memory.lookup (c :: m) a = some b) : c.1 ≤ a := by
  by_contra hlt
  have hnone : Memory.lookup (c :: m) a = none := by
    refine Memory.lookup_eq_none_of_lt fun d hd => ?_
    rcases List.mem_cons.1 hd with rfl | hd
    · omega
    · have := List.rel_of_pairwise_cons hm hd
      omega
  cases hnone.symm.trans h

/-- The rest of a canonical memory holds what the memory holds, but at the first cell's offset. -/
theorem Memory.lookup_tail {c : Host.Cell} {m : Memory} (hm : Memory.wf (c :: m)) (a : Nat) :
    m.lookup a = if c.1 = a then none else Memory.lookup (c :: m) a := by
  by_cases ha : c.1 = a
  · rw [if_pos ha, Memory.lookup_eq_none_of_lt]
    exact fun d hd => ha ▸ List.rel_of_pairwise_cons hm hd
  · rw [if_neg ha, Memory.lookup, if_neg ha]

theorem Memory.eq_of_lookup_eq {m n : Memory} (hm : m.wf) (hn : n.wf) (h : ∀ a, m.lookup a = n.lookup a) : m = n := by
  induction m generalizing n with
  | nil =>
    cases n with
    | nil => rfl
    | cons d n => cases (h d.1).trans (Memory.lookup_cons_self d n)
  | cons c m ih =>
    cases n with
    | nil => cases (h c.1).symm.trans (Memory.lookup_cons_self c m)
    | cons d n =>
      have hc := (h c.1).symm.trans (Memory.lookup_cons_self c m)
      have hd := (h d.1).trans (Memory.lookup_cons_self d n)
      have h1 : c.1 = d.1 := le_antisymm (Memory.head_le_of_lookup hm hd) (Memory.head_le_of_lookup hn hc)
      have h2 : c.2 = d.2 := by
        rw [h1, Memory.lookup_cons_self] at hc
        exact (Option.some.inj hc).symm
      rw [Prod.ext h1 h2, ih hm.of_cons hn.of_cons fun a => by rw [Memory.lookup_tail hm, Memory.lookup_tail hn, h1, h]]

end Sys2Proof.Machine
end

section
/-! PROOFS. Host accesses with BUSY = 0 and BUSY = 1 (20_memory.md sections 2 and 4, 10_state.md section 1), and the form of
memory (20_memory.md section 1). -/

open Sys2Proof Sys2Proof.Machine

namespace Sys2Proof.Claims

/-- Whatever BUSY is, ID, CFG and STATUS read their values and the read changes nothing but the response. -/
theorem readsWord_exact (s : State) {r : Reg} (h : r.exactWhileBusy = true) : ReadsWord s r.offset (s.regWord r) :=
  s.hostRead_reg_exact h

/-- Settles O14: reads by what they reach, a STATUS write whatever BUSY is, and every other legal write dropped. -/
theorem busyAccesses : Obligations.BusyAccesses := by
  intro s hb
  refine ⟨⟨readsWord_exact s (r := .id) rfl, readsWord_exact s (r := .cfg) rfl, readsWord_exact s (r := .status) rfl,
    s.statusWord_busy.trans hb⟩, fun off hl hid hcfg hstatus => ?_, fun off hl => ?_, s.hostWrite_status,
    fun a hl hw ho => s.hostAccess_dropped hb hl hw ho⟩
  · obtain ⟨r, rfl⟩ := exists_reg_of_legal hl
    exact State.hostRead_reg_busy hb (Reg.exactWhileBusy_eq_false hid hcfg hstatus)
  · exact (s.hostRead_byte hl).trans (State.readByte_busy hb _)

/-- Settles O15: a read changes the response and the count of draws only, and with BUSY = 0 its answer depends on neither. -/
theorem readsHaveNoSideEffect : Obligations.ReadsHaveNoSideEffect := by
  intro s off w
  obtain ⟨r, f, hr⟩ := s.exists_hostRead_eq off w
  have ha : s.hostAccess (.read off w) = { s with response := r, fresh := f } := hr
  rw [ha]
  exact ⟨rfl, fun hb => (State.hostRead_response_congr hb off w r f).trans (congrArg State.response hr)⟩

theorem variant_bits_eq_iff (v : Variant) : ∀ p ∈ variantCodes, v.bits = p.1 ↔ v = p.2 := by cases v <;> decide

theorem result_bits_eq_iff (c : ResultCode) : ∀ p ∈ resultCodes, c.bits = p.1 ↔ c = p.2 := by cases c <;> decide

theorem seqCls_bits_eq_iff (c : SeqCls) : ∀ p ∈ seqClsCodes, c.bits = p.1 ↔ c = p.2 := by cases c <;> decide

/-- Settles O16: each read answers the register's word, whose fields are at their places and determine the values by their
codes. -/
theorem registerReadLayout : Obligations.RegisterReadLayout := by
  intro s
  refine ⟨readsWord_exact s (r := .id) rfl, ⟨_, readsWord_exact s (r := .cfg) rfl, ?_⟩,
    ⟨_, readsWord_exact s (r := .status) rfl, ?_⟩, fun hb => ?_⟩
  · obtain ⟨hvariant, hmode, hconv, hreserved⟩ := s.cfgWord_fields
    simp only [State.regWord, hvariant, hmode, hconv]
    exact ⟨variant_bits_eq_iff s.variant, Mode.bit_eq_false_iff, Mode.bit_eq_true_iff, Conv.bit_eq_false_iff,
      Conv.bit_eq_true_iff, hreserved⟩
  · simp only [State.regWord, s.statusWord_result, s.statusWord_seqCls]
    exact ⟨result_bits_eq_iff s.result, s.statusWord_busy, seqCls_bits_eq_iff s.seqCls, s.statusWord_z0, s.statusWord_errs,
      s.statusWord_ovr, s.statusWord_reserved⟩
  · have reads (r : Reg) := readsWord_reg hb r
    exact ⟨reads .cmd, reads .crc, reads .csum, reads .expect, reads .hdr, reads .seq, reads .plen, reads .flen,
      reads .ocnt, _, reads .nstate, s.nstateWord_fields⟩

/-- Settles O19: with BUSY = 0 the access is `State.issue`, with BUSY = 1 it is dropped. -/
theorem cmdWriteIssuesCommand : Obligations.CmdWriteIssuesCommand := by
  refine fun s v => ⟨fun hb => ?_, fun hb =>
    State.hostWrite_dropped hb (targetOf_reg (r := .cmd).2 ⟨rfl, rfl⟩) (by decide) v⟩
  exact ⟨_, State.hostWrite_reg_idle hb .cmd v, rfl, rfl, rfl, rfl, rfl, readsWord_reg hb .cmd, rfl⟩

/-- Settles O20: each write is the register's own, which keeps the low bits or ignores the value. -/
theorem registerWrites : Obligations.RegisterWrites := by
  intro s v hb
  have writes (r : Reg) : s.hostAccess (.write32 r.offset v) = (s.writeReg v r).respond .okay :=
    State.hostWrite_reg_idle hb r v
  rw [← BitVec.setWidth_eq_extractLsb' (by decide), ← BitVec.setWidth_eq_extractLsb' (by decide)]
  refine ⟨writes .expect, writes .plen, writes .flen, ?_, fun off b h1 h2 => State.hostWrite_obuf hb h1 h2 b⟩
  simp only [List.forall_mem_cons, List.not_mem_nil, false_implies, implies_true, and_true]
  exact ⟨writes .id, writes .crc, writes .csum, writes .hdr, writes .seq, writes .ocnt, writes .nstate⟩

/-- Settles O21: the write is one byte of memory, which the read answers. -/
theorem bufferWriteThenRead : Obligations.BufferWriteThenRead := by
  intro s off b hb ho
  have hl : legalAt off.toNat .w8 = true := by
    simp only [legalAt, Bool.or_eq_true, decide_eq_true_eq]
    exact .inl ho
  let t := { s with mem := s.mem.write off.toNat [b] }.respond .okay
  have hread : t.byteAt off.toNat = b :=
    State.byteAt_write_inside (s := s) (t := t) (bs := [b]) (i := 0) rfl rfl Nat.zero_lt_one
  refine ⟨t, State.hostWrite_byte hb ho b, rfl, ?_, State.byteAt_write_outside (bs := [b]) rfl rfl, rfl,
    fun x hx hn => ?_⟩
  · exact hread ▸ congrArg State.response (State.hostRead_byte_idle (s := t) hb hl)
  · exact State.byteAt_of_lookup_none hn ▸ congrArg State.response (State.hostRead_byte_idle hb hx)

/-- Settles O26: by induction along both memories, whose first cells are at the least offset held. -/
theorem canonicalMemoryUnique : Obligations.CanonicalMemoryUnique := fun _ _ hm hn h => Memory.eq_of_lookup_eq hm hn h

end Sys2Proof.Claims
end

section
/-! SUPPORT. What a cell of the pair table can emit, and the output of a run with its flush (44_normalizer.md R192, R205 to
R207). -/

namespace Sys2Proof.Machine

variable (p : DblLe) (c : Conv)

/-- The carry a cell leaves is the second byte (44_normalizer.md R197). -/
theorem eq_of_pair_carry {f x k : Byte} (h : (pair p c f x).2 = some k) : k = x := by
  unfold pair at h
  split at h <;> simp_all

/-- A cell whose second byte is SUB leaves nothing pending (44_normalizer.md R196). -/
theorem pair_sub_carry (f : Byte) : (pair p c f subByte).2 = none := by
  simp only [pair, classOf_subByte]
  cases classOf f <;> rfl

/-- Only the cells (CR, CR) and (LF, LF) emit more than two bytes (44_normalizer.md R205). -/
theorem pair_double_or_short (f x : Byte) :
    (classOf f = classOf x ∧ (classOf f = .cr ∨ classOf f = .lf) ∧ pair p c f x = (doubleEnd p c, none)) ∨
      (pair p c f x).1.length ≤ 2 := by
  have hle := lineEnd_length_le c
  unfold pair
  split <;> simp_all

/-- A byte that a cell emits is an OTHER byte, or the cell emits line ends only (44_normalizer.md R207). -/
theorem mem_pair {f x b : Byte} (h : b ∈ (pair p c f x).1) :
    classOf b = .other ∨ (pair p c f x).1 = lineEnd c ∨ (pair p c f x).1 = doubleEnd p c := by
  unfold pair at h ⊢
  split at h <;> simp_all
  -- Only the cell (OTHER, OTHER) is left: it emits both its bytes.
  rcases h with rfl | rfl <;> simp_all

theorem filter_other_lineEnd : (lineEnd c).filter (classOf · = .other) = [] := by cases c <;> rfl

theorem filter_other_doubleEnd : (doubleEnd p c).filter (classOf · = .other) = [] := by cases p <;> cases c <;> rfl

/-- A cell emits or keeps the OTHER bytes it consumes, in order (44_normalizer.md R207). -/
theorem filter_other_pair (f x : Byte) :
    ((pair p c f x).1 ++ (pair p c f x).2.toList).filter (classOf · = .other) =
      [f, x].filter (classOf · = .other) := by
  have h1 := filter_other_lineEnd c
  have h2 := filter_other_doubleEnd p c
  unfold pair
  split <;> simp_all [List.filter_append]

/-- The output of a run and of the flush behind it (44_normalizer.md R198, R202). -/
def flushed (k : Option Byte) (data : List Byte) : List Byte :=
  (nrun p c k data).1 ++ (nflush p c (nrun p c k data).2).1

theorem flushed_nil (k : Option Byte) : flushed p c k [] = (nflush p c k).1 := rfl

theorem flushed_cons (k : Option Byte) (b : Byte) (bs : List Byte) :
    flushed p c k (b :: bs) = (nstep p c k b).1 ++ flushed p c (nstep p c k b).2 bs := by
  simp [flushed, nrun_cons]

/-- What holds of every byte a cell emits holds of every byte of a flushed run. -/
theorem mem_flushed {P : Byte → Prop} (hP : ∀ f x, ∀ b ∈ (pair p c f x).1, P b) (k : Option Byte) (data : List Byte) :
    ∀ b ∈ flushed p c k data, P b := by
  induction data generalizing k with
  | nil =>
    cases k with
    | none => exact nofun
    | some f => exact hP f subByte
  | cons x bs ih =>
    intro b hb
    rw [flushed_cons] at hb
    rcases List.mem_append.1 hb with hb | hb
    · cases k with
      | none => cases hb
      | some f => exact hP f x b hb
    · exact ih _ b hb

/-- A step emits or keeps the OTHER bytes it consumes, in order. -/
theorem filter_other_nstep (k : Option Byte) (b : Byte) :
    ((nstep p c k b).1 ++ (nstep p c k b).2.toList).filter (classOf · = .other) =
      (k.toList ++ [b]).filter (classOf · = .other) := by
  cases k with
  | none => rfl
  | some f => exact filter_other_pair p c f b

/-- A flushed run emits exactly the OTHER bytes of its carry and its input, in order (44_normalizer.md R207). -/
theorem filter_other_flushed (k : Option Byte) (data : List Byte) :
    (flushed p c k data).filter (classOf · = .other) = (k.toList ++ data).filter (classOf · = .other) := by
  induction data generalizing k with
  | nil =>
    cases k with
    | none => rfl
    | some f =>
      have h := filter_other_pair p c f subByte
      rw [pair_sub_carry] at h
      simpa [flushed_nil, nflush, List.filter_cons] using h
  | cons b bs ih =>
    have h := filter_other_nstep p c k b
    rw [flushed_cons, List.filter_append, ih, List.filter_append, ← List.append_assoc, ← List.filter_append, h,
      ← List.filter_append, List.append_assoc, List.singleton_append]

/-- Under LF with P_DBL_LE = TARGET no cell emits CR (44_normalizer.md R207). -/
theorem mem_pair_target_lf {f x b : Byte} (h : b ∈ (pair .target .lf f x).1) : b ≠ 0x0D := by
  rintro rfl
  rcases mem_pair _ _ h with hc | he | he
  · cases hc
  · rw [he] at h
    exact absurd h (by decide)
  · rw [he] at h
    exact absurd h (by decide)

/-- No cell emits SUB (44_normalizer.md R207). -/
theorem mem_pair_ne_sub {f x b : Byte} (h : b ∈ (pair p c f x).1) : b ≠ 0x1A := by
  rcases mem_pair p c h with hc | he | he
  · rintro rfl
    cases hc
  · exact (mem_lineEnd c b (he ▸ h)).1
  · exact (mem_doubleEnd p c b (he ▸ h)).1

theorem eq_cr_of_classOf {b : Byte} (h : classOf b = .cr) : b = 0x0D := by
  unfold classOf at h
  split_ifs at h with hb
  exact hb

theorem eq_lf_of_classOf {b : Byte} (h : classOf b = .lf) : b = 0x0A := by
  unfold classOf at h
  split_ifs at h with _ hb
  exact hb

/-- Under LF with P_DBL_LE = LITERAL only the two double cells emit CR (44_normalizer.md R207). -/
theorem double_of_cr_mem_pair_literal_lf {f x : Byte} (h : 0x0D#8 ∈ (pair .literal .lf f x).1) :
    (f = 0x0D ∧ x = 0x0D) ∨ (f = 0x0A ∧ x = 0x0A) := by
  rcases pair_double_or_short .literal .lf f x with ⟨hfx, hf | hf, -⟩ | hshort
  · exact .inl ⟨eq_cr_of_classOf hf, eq_cr_of_classOf (hfx ▸ hf)⟩
  · exact .inr ⟨eq_lf_of_classOf hf, eq_lf_of_classOf (hfx ▸ hf)⟩
  · rcases mem_pair _ _ h with hc | he | he
    · cases hc
    · rw [he] at h
      exact absurd h (by decide)
    · rw [he] at hshort
      exact absurd hshort (by decide)

/-! ## Runs over OTHER and SUB bytes (95_test_vectors.md E6) -/

theorem pair_other_other {f x : Byte} (hf : classOf f = .other) (hx : classOf x = .other) :
    pair p c f x = ([f, x], none) := by simp [pair, hf, hx]

theorem pair_other_sub {f : Byte} (hf : classOf f = .other) : pair p c f subByte = ([f], none) := by simp [pair, hf]

/-- Pairs of SUB bytes emit nothing. -/
theorem nrun_none_subs : ∀ n, n % 2 = 0 → nrun p c none (List.replicate n subByte) = ([], none)
  | 0, _ => rfl
  | n + 2, h => (nrun_none_subs n (by omega) :)

/-- Pairs of OTHER bytes are emitted as they are. -/
theorem nrun_none_others : ∀ data : List Byte, (∀ b ∈ data, classOf b = .other) → data.length % 2 = 0 →
    nrun p c none data = (data, none)
  | [], _, _ => rfl
  | [_], _, h => nomatch h
  | a :: b :: data, hd, hl => by
    have ha := hd a (by simp)
    have hb := hd b (by simp)
    have ih := nrun_none_others data (fun x hx => hd x (by simp [hx])) (by simp only [List.length_cons] at hl; omega)
    simp [nrun_cons, nstep, pair_other_other p c ha hb, ih]

/-- SUB bytes alone are dropped. -/
theorem flushed_none_subs : ∀ n, flushed p c none (List.replicate n subByte) = []
  | 0 => rfl
  | 1 => rfl
  | n + 2 => (flushed_none_subs n :)

/-- SUB bytes behind OTHER bytes are dropped. -/
theorem flushed_none_padded (n : Nat) : ∀ data : List Byte, (∀ b ∈ data, classOf b = .other) →
    flushed p c none (data ++ List.replicate n subByte) = data
  | [], _ => flushed_none_subs p c n
  | [a], hd => by
    have ha := hd a (by simp)
    cases n with
    | zero => simp [flushed_cons, flushed_nil, nstep, nflush_other p c ha]
    | succ n => simp [List.replicate_succ, flushed_cons, nstep, pair_other_sub p c ha, flushed_none_subs]
  | a :: b :: data, hd => by
    have ha := hd a (by simp)
    have hb := hd b (by simp)
    have ih := flushed_none_padded n data fun x hx => hd x (by simp [hx])
    simp [flushed_cons, nstep, pair_other_other p c ha hb, ih]

end Sys2Proof.Machine
end

section
/-! SUPPORT. What DELIVER and NORM_BYTE leave in OBUF, for cutting the stream (44_normalizer.md R206). -/

open Sys2Proof Sys2Proof.Machine

namespace Sys2Proof.Claims

/-- Two runs of bytes that read the same byte by byte. -/
theorem bytesAt_eq_bytesAt {s t : State} {a b n : Nat} (h : ∀ i, i < n → t.byteAt (b + i) = s.byteAt (a + i)) :
    t.bytesAt b n = s.bytesAt a n :=
  List.map_congr_left fun i hi => h i (List.mem_range.1 hi)

/-- DELIVER leaves its output in OBUF[0..OCNT) and its carry (44_normalizer.md R202). -/
theorem exists_exec_deliver {s : State} (h : s.plen.toNat ≤ 1024) :
    ∃ t, exec .deliver s = .next t ∧ obufContents t = s.deliverOutput.1 ∧ t.carry = s.deliverOutput.2 := by
  refine ⟨_, exec_deliver_of_le h, ?_, rfl⟩
  have hlen : (s.storeOutput s.deliverOutput).finishOk.ocnt.toNat = s.deliverOutput.1.length :=
    toNat_ofNat_of_le_obufSize (State.deliverOutput_length h)
  rw [obufContents, hlen]
  exact State.bytesAt_write (s := s) rfl rfl

/-- One step emits no more than OBUF holds from index 0 (44_normalizer.md R205). -/
theorem nstep_length_le (p : DblLe) (c : Conv) (k : Option Byte) (b : Byte) : (nstep p c k b).1.length ≤ 4 := by
  have hw := nstep_weight p c k b
  have hk : carryWeight k ≤ 2 := by
    unfold carryWeight
    split <;> omega
  omega

/-- NORM_BYTE at OCNT = 0 leaves the step's output in OBUF[0..OCNT) and its carry (44_normalizer.md R200). -/
theorem exists_exec_normByte {s : State} (h : s.ocnt = 0) (b : Byte) :
    ∃ t, exec (.normByte b) s = .next t ∧ obufContents t = (nstep Config.dblLe s.conv s.carry b).1 ∧
      t.carry = (nstep Config.dblLe s.conv s.carry b).2 := by
  have hzero : s.ocnt.toNat = 0 := congrArg BitVec.toNat h
  have hlen := nstep_length_le Config.dblLe s.conv s.carry b
  obtain ⟨t, ht, hbytes, -, hocnt, hcarry, -⟩ :=
    (exec_appendOutput (i := .normByte b) (s := s) (out := (nstep Config.dblLe s.conv s.carry b).1)
      (k := (nstep Config.dblLe s.conv s.carry b).2) rfl).1 (by omega)
  refine ⟨t, ht, ?_, hcarry⟩
  rw [hzero, Nat.add_zero] at hbytes
  rw [obufContents, hocnt, hzero, Nat.zero_add, hbytes]

end Sys2Proof.Claims
end

section
/-! PROOFS. The receive sequence (43_sequence.md) and the normalizer's laws (44_normalizer.md sections 3 and 5). -/

open Sys2Proof Sys2Proof.Machine

namespace Sys2Proof.Claims

/-- Settles O46: SEQ_CHECK is NEW, DUP or OOO as SEQ is EXPECT, one less, or neither, and it writes no other register. -/
theorem duplicateSuppression : Obligations.DuplicateSuppression := by
  intro s h
  have hnew := exec_seqCheck_done (classify_eq_new_iff.2 h) (by decide)
  let u : State := { { s with seqCls := SeqCls.new }.finishOk with expect := s.expect + 1 }.finishOk
  have hback (e : Byte) : e = e + 1 - 1 := by bv_omega
  have hskip (e : Byte) : e + 2 ≠ e + 1 ∧ e + 2 ≠ e + 1 - 1 := by bv_omega
  have hdup := exec_seqCheck_done (s := u) (classify_eq_dup_iff.2 (h.trans (hback s.expect))) (by decide)
  have hooo := exec_seqCheck_ooo (s := { u with seq := s.expect + 2 }) (classify_eq_ooo_iff.2 (hskip s.expect))
  exact ⟨_, u, _, _, hnew, rfl, rfl, hdup, rfl, rfl, rfl, rfl, rfl, State.byteAt_congr rfl rfl, hooo, rfl, rfl, rfl, rfl,
    rfl, State.byteAt_congr rfl rfl⟩

/-- Settles O48: the step and the flush by their definitions, and the cells with SUB as second byte. -/
theorem nstepAndNflush : Obligations.NstepAndNflush :=
  ⟨fun _ _ _ => rfl, fun _ _ _ _ => rfl, fun p c _ _ _ => eq_of_pair_carry p c, fun _ _ => rfl,
    fun p c f => ⟨rfl, pair_sub_carry p c f⟩, fun _ _ => ⟨rfl, rfl, rfl⟩,
    fun p c _ hf => congrArg Prod.fst (pair_other_sub p c (classOf_eq_other_iff.2 hf))⟩

/-- Settles O52: only the double cells emit more than two bytes, and they leave nothing pending and have no SUB. -/
theorem normalizerOutputBound : Obligations.NormalizerOutputBound := by
  refine ⟨fun p c f x => ?_, fun _ _ _ => rfl, fun p c k => ?_, fun s hp => ?_⟩
  · rcases pair_double_or_short p c f x with ⟨-, -, hd⟩ | hshort
    · rw [hd]
      exact doubleEnd_length_le p c
    · split <;> omega
  · cases k with
    | none => exact Nat.zero_le 2
    | some f =>
      rcases pair_double_or_short p c f subByte with ⟨hsub, hf | hf, -⟩ | hshort
      · cases hf.symm.trans hsub
      · cases hf.symm.trans hsub
      · exact hshort
  · refine ⟨_, exec_deliver_of_le hp, rfl, ?_⟩
    exact (toNat_ofNat_of_le_obufSize (State.deliverOutput_length hp)).trans_le (State.deliverOutput_length hp)

/-- Settles O53: each clause holds of every cell, and a run with its flush joins the outputs of its cells. -/
theorem normalizerOutputAlphabet : Obligations.NormalizerOutputAlphabet := by
  refine ⟨?_, fun p c f x b hb ho => (mem_pair p c hb).resolve_left ho, fun f x => double_of_cr_mem_pair_literal_lf⟩
  rintro p c k data _ rfl
  refine ⟨mem_flushed p c (fun _ _ _ => mem_pair_ne_sub p c) k data, filter_other_flushed p c k data, ?_⟩
  rintro rfl rfl
  exact mem_flushed .target .lf (fun _ _ _ => mem_pair_target_lf) k data

/-- Settles O54: the run over the whole payload is the run over its first part and then over the second; a one-byte run is
one step. -/
theorem deliverRechunking : Obligations.DeliverRechunking := by
  refine ⟨fun s s1 s2 t1 hm hm1 hm2 hc1 hc2 hp hsum hk1 hb1 hb2 he1 hk2 => ?_, fun s hm hp ho => ?_⟩
  · obtain ⟨t, ht, hout, hcarry⟩ := exists_exec_deliver hp
    obtain ⟨t1', ht1, hout1, hcarry1⟩ := exists_exec_deliver (s := s1) (by omega)
    obtain ⟨t2, ht2, hout2, hcarry2⟩ := exists_exec_deliver (s := s2) (by omega)
    cases he1.symm.trans ht1
    have hpay1 : s1.pbufBytes s1.plen.toNat = s.bytesAt pbufBase s1.plen.toNat := bytesAt_eq_bytesAt hb1
    have hpay2 : s2.pbufBytes s2.plen.toNat = s.bytesAt (pbufBase + s1.plen.toNat) s2.plen.toNat := bytesAt_eq_bytesAt hb2
    rw [State.deliverOutput_of_text hm1, hc1, hk1, hpay1] at hout1 hcarry1
    rw [State.deliverOutput_of_text hm2, hc2, hk2, hcarry1, hpay2] at hout2 hcarry2
    rw [State.deliverOutput_of_text hm, hsum, State.pbufBytes, State.bytesAt_add, nrun_append] at hout hcarry
    exact ⟨t, t2, ht, ht2, by rw [hout, hout1, hout2], by rw [hcarry, hcarry2]⟩
  · have hplen : s.plen.toNat = 1 := congrArg BitVec.toNat hp
    obtain ⟨t, ht, hout, hcarry⟩ := exists_exec_deliver (s := s) (by omega)
    obtain ⟨u, hu, hout', hcarry'⟩ := exists_exec_normByte ho (s.byteAt 0x400)
    have hpay : s.pbufBytes 1 = [s.byteAt 0x400] := rfl
    rw [State.deliverOutput_of_text hm, hplen, hpay, nrun_cons, nrun_nil, List.append_nil] at hout hcarry
    exact ⟨t, u, ht, hu, hout.trans hout'.symm, hcarry.trans hcarry'.symm⟩

/-- Settles O55: OTHER bytes go through in pairs, and SUB bytes behind them emit nothing. -/
theorem padStripping : Obligations.PadStripping := by
  intro p c data n hd
  have hd' : ∀ b ∈ data, classOf b = .other := fun b hb => classOf_eq_other_iff.2 (hd b hb)
  refine ⟨flushed_none_padded p c n data hd', fun hl hn => ?_⟩
  have hsubs : nrun p c none (List.replicate n 0x1A) = ([], none) := nrun_none_subs p c n hn
  rw [nrun_append, nrun_none_others p c data hd' hl, hsubs, List.append_nil]

end Sys2Proof.Claims
end

section
/-! SUPPORT. What each command writes and which errors it reports, said once for every command: an error of its own,
SEQ_CHECK's OOO, or writes to the registers and the one buffer that the rules name it for (10_state.md R37 to R47,
60_exceptions.md R240). -/

open Sys2Proof Sys2Proof.Machine

namespace Sys2Proof.Claims

/-- `s` with the values of `t` in memory, in the fields of `finish` and in the registers that the rules name `i` as a writer
of. -/
def withNamedWrites (i : Instr) (s t : State) : State :=
  { s with
    result := t.result
    errs := t.errs
    busy := t.busy
    crc := if writesCrc i then t.crc else s.crc
    csum := if writesCsum i then t.csum else s.csum
    expect := if writesExpect i then t.expect else s.expect
    hdr := if writesDecoded i then t.hdr else s.hdr
    seq := if writesDecoded i then t.seq else s.seq
    z0 := if writesDecoded i then t.z0 else s.z0
    plen := if i = .frmDecode then t.plen else s.plen
    flen := if writesFlen i then t.flen else s.flen
    ocnt := if writesOcnt i then t.ocnt else s.ocnt
    carry := if writesCarry i then t.carry else s.carry
    seqCls := if writesSeqCls i then t.seqCls else s.seqCls
    mem := t.mem }

/-- The `n` bytes from `a` lie in the buffer that the rules name `i` as a writer of (10_state.md R47). -/
def namedRun (i : Instr) (a n : Nat) : Prop :=
  (i = .frmDecode ∧ 0x400 ≤ a ∧ a + n ≤ 0x800) ∨ (writesFlen i = true ∧ 0x800 ≤ a ∧ a + n ≤ 0xC05) ∨
    (writesObuf i = true ∧ 0x1000 ≤ a ∧ a + n ≤ 0x1802)

/-- `t` differs from `s` only where the rules name `i` as a writer. -/
structure NamedWrites (i : Instr) (s t : State) : Prop where
  regs : withNamedWrites i s t = t
  mem : t.mem = s.mem ∨ ∃ a bs, t.mem = s.mem.write a bs ∧ namedRun i a bs.length

/-- What a command can leave, with its own errors and its own writes. -/
inductive CommandResult (i : Instr) (s : State) : State → Prop where
  | error {c : ResultCode} (hc : c ∈ errorsOf i) : CommandResult i s (s.raise c)
  | outOfOrder (hi : i = .seqCheck) : CommandResult i s ({ s with seqCls := .ooo }.raise .sequence)
  | done {p : State} (hp : NamedWrites i s p.finishOk) : CommandResult i s p.finishOk

/-- A command whose writes are to registers only. -/
theorem CommandResult.ofRegs {i : Instr} {s p : State} (regs : withNamedWrites i s p.finishOk = p.finishOk)
    (mem : p.mem = s.mem) : CommandResult i s p.finishOk :=
  .done ⟨regs, .inl mem⟩

/-- A frame that fits FBUF is a write of a command that the rules name for it. -/
theorem CommandResult.storeFrame {i : Instr} {s : State} {f : List Byte} (hf : f.length ≤ fbufSize)
    (hi : writesFlen i = true)
    (regs : withNamedWrites i s (s.storeFrame f).finishOk = (s.storeFrame f).finishOk) :
    CommandResult i s (s.storeFrame f).finishOk := by
  unfold fbufSize at hf
  exact .done ⟨regs, .inr ⟨0x800, f, rfl, .inr (.inl ⟨hi, le_rfl, by omega⟩)⟩⟩

/-- So is an append to OBUF that fits, and an append that does not fit is an error. -/
theorem CommandResult.appendOutput {i : Instr} {s : State} {r : List Byte × Option Byte}
    (hi : writesObuf i = true) (he : .overflow ∈ errorsOf i)
    (regs : ∀ m n k, withNamedWrites i s { s with mem := m, ocnt := n, carry := k }.finishOk =
      { s with mem := m, ocnt := n, carry := k }.finishOk) : CommandResult i s (s.appendOutput r) := by
  rcases s.appendOutput_cases r with ⟨-, happ⟩ | ⟨hfit, happ⟩ <;> rw [happ]
  · exact .error he
  · unfold obufSize at hfit
    refine .done ⟨regs .., .inr ⟨0x1000 + s.ocnt.toNat, r.1, rfl, .inr (.inr ⟨hi, by omega, by omega⟩)⟩⟩

/-- Every command leaves one of these (60_exceptions.md R240, 10_state.md R37 to R47). -/
theorem exec_commandResult {i : Instr} {s t : State} (h : exec i s = .next t) : CommandResult i s t := by
  have of {u : State} (hu : exec i s = .next u) (hr : CommandResult i s u) : CommandResult i s t := by
    cases h.symm.trans hu
    exact hr
  cases i with
  | nop => exact of rfl (.ofRegs (p := s) rfl rfl)
  | sessInit e => exact of rfl (.ofRegs rfl rfl)
  | crcInit => exact of rfl (.ofRegs rfl rfl)
  | crcByte b => exact of rfl (.ofRegs rfl rfl)
  | crcPbuf =>
    rcases Nat.lt_or_ge pbufSize s.plen.toNat with hp | hp
    · exact of (exec_crcPbuf_of_gt hp) (.error (by decide))
    · exact of (exec_crcPbuf_of_le hp) (.ofRegs rfl rfl)
  | csumInit => exact of rfl (.ofRegs rfl rfl)
  | csumByte b => exact of rfl (.ofRegs rfl rfl)
  | csumPbuf =>
    rcases Nat.lt_or_ge pbufSize s.plen.toNat with hp | hp
    · exact of (exec_csumPbuf_of_gt hp) (.error (by decide))
    · exact of (exec_csumPbuf_of_le hp) (.ofRegs rfl rfl)
  | frmEncode hdr sq pad =>
    by_cases hok : headerLegal s.variant hdr = true ∧ s.plen.toNat ≤ payloadSize hdr
    · obtain ⟨hl, hp⟩ := hok
      refine of (exec_frmEncode_of_legal hl hp) (.storeFrame ?_ rfl rfl)
      rw [dataFrame_length, paddedPayload_pbufBytes_length hp]
      exact frameLength_le s.variant hdr
    · refine of (exec_frmEncode_of_not_legal ?_) (.error (by simp [errorsOf]))
      rwa [not_and_or, Bool.not_eq_true, Nat.not_le] at hok
  | frmCtrl c =>
    by_cases hc : isControl c = true
    · exact of (exec_frmCtrl_of_isControl hc) (.storeFrame (Nat.le_of_ble_eq_true rfl) rfl rfl)
    · exact of (exec_frmCtrl_of_not_isControl hc) (.error (by simp [errorsOf]))
  | frmDecode =>
    rcases s.frameVerdict_cases with ⟨c, -, hv⟩ | ⟨hf, hc, -⟩ | ⟨-, hl, hf, hk, ht, -⟩
    · refine of (exec_frmDecode_of_reject hv) (.error ?_)
      simpa [errorsOf] using State.frameVerdict_reject hv
    · exact of (exec_frmDecode_of_control hf hc) (.ofRegs rfl rfl)
    · refine of (exec_frmDecode_of_data hl hf hk ht) (.done ⟨rfl, .inr ⟨0x400, _, rfl, .inl ⟨rfl, le_rfl, ?_⟩⟩⟩)
      have hsize := payloadSize_le (s.fbufByte 0)
      unfold pbufSize at hsize
      rw [State.fbufBytes, State.bytesAt_length]
      omega
  | seqCheck =>
    by_cases hc : classify s.seq s.expect = .ooo
    · exact of (exec_seqCheck_ooo hc) (.outOfOrder rfl)
    · exact of (exec_seqCheck_done rfl hc) (.ofRegs rfl rfl)
  | seqAdvance => exact of rfl (.ofRegs rfl rfl)
  | normReset => exact of rfl (.ofRegs rfl rfl)
  | normByte b => exact of rfl (.appendOutput rfl (by simp [errorsOf]) fun _ _ _ => rfl)
  | normFlush => exact of rfl (.appendOutput rfl (by decide) fun _ _ _ => rfl)
  | deliver =>
    rcases Nat.lt_or_ge pbufSize s.plen.toNat with hp | hp
    · exact of (exec_deliver_of_gt hp) (.error (by decide))
    · refine of (exec_deliver_of_le hp) (.done ⟨rfl, .inr ⟨0x1000, _, rfl, .inr (.inr ⟨rfl, le_rfl, ?_⟩)⟩⟩)
      have hfit := State.deliverOutput_length hp
      unfold obufSize at hfit
      omega
  | obufClear => exact of rfl (.ofRegs rfl rfl)

/-- Every command writes only what the rules name it for. -/
theorem exec_namedWrites {i : Instr} {s t : State} (h : exec i s = .next t) : NamedWrites i s t := by
  cases exec_commandResult h with
  | error hc => exact ⟨by simp [withNamedWrites, State.raise], .inl rfl⟩
  | outOfOrder hi => exact hi ▸ ⟨rfl, .inl rfl⟩
  | done hp => exact hp

/-- A byte outside the buffer that a command writes reads as before. -/
theorem NamedWrites.byteAt_eq {i : Instr} {s t : State} (hw : NamedWrites i s t) (hb : t.bufSeed = s.bufSeed) {x : Nat}
    (hx : ∀ a n, namedRun i a n → x < a ∨ a + n ≤ x) : t.byteAt x = s.byteAt x := by
  rcases hw.mem with hm | ⟨a, bs, hm, hrun⟩
  · exact State.byteAt_congr hm hb x
  · exact State.byteAt_write_outside hm hb x (hx a bs.length hrun)

end Sys2Proof.Claims
end

section
/-! SUPPORT. What a step does to ERRS, OVR and CFG: a host access leaves them, is a dropped write, or writes STATUS or CFG
(10_state.md R32, R35, 20_memory.md R77). -/

open Sys2Proof Sys2Proof.Machine

namespace Sys2Proof.Claims

/-- `t` has the sticky bits and CFG of `s`. -/
def SameHostFlags (s t : State) : Prop :=
  t.errs = s.errs ∧ t.ovr = s.ovr ∧ t.variant = s.variant ∧ t.mode = s.mode ∧ t.conv = s.conv

/-- What a host access does to the sticky bits and CFG. -/
inductive AccessFlags (s : State) (a : Access) : State → Prop where
  | kept {t : State} (h : SameHostFlags s t) : AccessFlags s a t
  | dropped (hb : s.busy = true) (hw : a.isWrite = true) (hl : a.legal = true) : AccessFlags s a (s.dropWrite.respond .okay)
  | status (v : Word) (ha : a = .write32 0x00C v) : AccessFlags s a ((s.writeStatus v).respond .okay)
  | cfg (v : Word) (ha : a = .write32 0x004 v) (hb : s.busy = false) : AccessFlags s a ((s.writeCfg v).respond .okay)

/-- A write that is not dropped changes the sticky bits and CFG only in STATUS or CFG. -/
theorem accessFlags_writeTarget {s : State} {a : Access} {off : Offset} {v : Word} {t : Target}
    (ha : ∀ r, t = .reg r → a = .write32 r.offset v) (hb : s.busy = false ∨ t = .reg .status) :
    AccessFlags s a ((s.writeTarget off v t).respond .okay) := by
  cases t with
  | reg r =>
    cases r with
    | cfg => exact .cfg v (ha _ rfl) (hb.resolve_right nofun)
    | status => exact .status v (ha _ rfl)
    | _ => exact .kept ⟨rfl, rfl, rfl, rfl, rfl⟩
  | _ => exact .kept ⟨rfl, rfl, rfl, rfl, rfl⟩

/-- A write is refused, dropped or its target's. -/
theorem accessFlags_hostWrite {s : State} {a : Access} {off : Offset} {w : Width} {v : Word} (hw : a.isWrite = true)
    (hl : a.legal = legalAt off.toNat w) (ha : w = .w32 → a = .write32 off v) :
    AccessFlags s a (s.hostWrite off w v) := by
  rcases s.hostWrite_cases off w v with ⟨-, h⟩ | ⟨t, ht, hb, -, h⟩ | ⟨t, ht, hb, h⟩ <;> rw [h]
  · exact .kept ⟨rfl, rfl, rfl, rfl, rfl⟩
  · exact .dropped hb hw (by rw [hl, ← targetOf_isSome, ht]; rfl)
  · refine accessFlags_writeTarget (fun r hr => ?_) hb
    obtain ⟨hw32, rfl⟩ := targetOf_reg.1 (hr ▸ ht)
    exact ha hw32

/-- What every host access does to the sticky bits and CFG. -/
theorem accessFlags_hostAccess (s : State) (a : Access) : AccessFlags s a (s.hostAccess a) := by
  cases a with
  | read off w =>
    obtain ⟨r, f, hr⟩ := s.exists_hostRead_eq off w
    rw [State.hostAccess, hr]
    exact .kept ⟨rfl, rfl, rfl, rfl, rfl⟩
  | write8 off v => exact accessFlags_hostWrite (w := .w8) (v := v.setWidth 32) rfl rfl nofun
  | write16 off v => exact accessFlags_hostWrite (w := .w16) (v := v.setWidth 32) rfl rfl nofun
  | write32 off v => exact accessFlags_hostWrite (w := .w32) rfl rfl fun _ => rfl
  | writeOther off => exact accessFlags_hostWrite (w := .other) (v := 0) rfl rfl nofun

/-- What the statement says of one step from `s` to `t`: who may clear or set the sticky bits and who may change CFG
(10_state.md sections 1 and 4). -/
def HostOwnsFlags (s t : State) : Prop :=
  (s.errs = true → t.errs = false →
    ∃ rest, s.inputs = .reset :: rest ∨ ∃ v, s.inputs = .access (.write32 0x00C v) :: rest ∧ v.getLsbD 8 = true) ∧
  (s.ovr = true → t.ovr = false →
    ∃ rest, s.inputs = .reset :: rest ∨ ∃ v, s.inputs = .access (.write32 0x00C v) :: rest ∧ v.getLsbD 9 = true) ∧
  (s.errs = false → t.errs = true → s.busy = true ∧ t.busy = false ∧ t.result ≠ .ok) ∧
  (s.ovr = false → t.ovr = true →
    s.busy = true ∧ ∃ a rest, s.inputs = .access a :: rest ∧ a.isWrite = true ∧ a.legal = true) ∧
  (t.variant ≠ s.variant ∨ t.mode ≠ s.mode ∨ t.conv ≠ s.conv →
    ∃ rest, s.inputs = .reset :: rest ∨ ∃ v, s.inputs = .access (.write32 0x004 v) :: rest ∧ s.busy = false)

/-- A step that leaves OVR and CFG and only sets ERRS, at the completion of an error. -/
theorem hostOwnsFlags_of_errs {s t : State} (herrs : s.errs = true → t.errs = true) (ho : t.ovr = s.ovr)
    (hv : t.variant = s.variant) (hm : t.mode = s.mode) (hc : t.conv = s.conv)
    (hrise : s.errs = false → t.errs = true → s.busy = true ∧ t.busy = false ∧ t.result ≠ .ok) : HostOwnsFlags s t := by
  refine ⟨fun h h' => ?_, fun h h' => ?_, hrise, fun h h' => ?_, fun h => ?_⟩
  · exact Bool.noConfusion ((herrs h).symm.trans h')
  · exact Bool.noConfusion (h.symm.trans (ho.symm.trans h'))
  · exact Bool.noConfusion (h.symm.trans (ho.symm.trans h'))
  · rcases h with h | h | h
    · exact absurd hv h
    · exact absurd hm h
    · exact absurd hc h

theorem hostOwnsFlags_of_same {s t : State} (h : SameHostFlags s t) : HostOwnsFlags s t := by
  obtain ⟨he, ho, hv, hm, hc⟩ := h
  exact hostOwnsFlags_of_errs (fun h => he.trans h) ho hv hm hc fun h h' =>
    Bool.noConfusion (h.symm.trans (he.symm.trans h'))

/-- A completion sets ERRS when it fails and changes nothing of the host's. -/
theorem hostOwnsFlags_complete {s t : State} (hb : s.busy = true) (h : complete s = .next t) : HostOwnsFlags s t := by
  cases hd : decode s.cmdLatch with
  | command i =>
    have he := (complete_command hd).symm.trans h
    have hk := exec_keepsUnwritten he
    have herrs := exec_errs he
    refine hostOwnsFlags_of_errs (fun hs => ?_) (congrArg State.ovr hk :) (congrArg State.variant hk :)
      (congrArg State.mode hk :) (congrArg State.conv hk :) fun hs ht => ⟨hb, exec_busy he, fun hr => ?_⟩
    · rw [herrs, hs, ite_self]
    · exact Bool.noConfusion (hs.symm.trans ((exec_errs_of_result_ok he hr).symm.trans ht))
  | illegal r =>
    cases (complete_illegal hd).symm.trans h
    exact hostOwnsFlags_of_errs (fun _ => rfl) rfl rfl rfl rfl fun _ _ => ⟨hb, rfl, nofun⟩

/-- Taking an input: a reset, a poll, or an access by what it does. -/
theorem hostOwnsFlags_takeInput {s : State} {i : Input} {rest : List Input} (hi : s.inputs = i :: rest) :
    HostOwnsFlags s (s.takeInput i rest) := by
  cases i with
  | reset => exact ⟨fun _ _ => ⟨rest, .inl hi⟩, fun _ _ => ⟨rest, .inl hi⟩, nofun, nofun, fun _ => ⟨rest, .inl hi⟩⟩
  | poll =>
    refine hostOwnsFlags_of_same ?_
    rw [State.takeInput, State.hostRead_status]
    exact ⟨rfl, rfl, rfl, rfl, rfl⟩
  | access a =>
    have hflags := accessFlags_hostAccess (s.passAccess rest) a
    rw [State.takeInput]
    generalize (s.passAccess rest).hostAccess a = t at hflags
    cases hflags with
    | kept h => exact hostOwnsFlags_of_same h
    | dropped hb hw hl =>
      refine ⟨fun h h' => ?_, nofun, fun h h' => ?_, fun _ _ => ⟨hb, a, rest, hi, hw, hl⟩, ?_⟩
      · exact Bool.noConfusion (h.symm.trans h')
      · exact Bool.noConfusion (h.symm.trans h')
      · rintro (h | h | h) <;> exact absurd rfl h
    | status v ha =>
      subst ha
      refine ⟨fun h h' => ⟨rest, .inr ⟨v, hi, ?_⟩⟩, fun h h' => ⟨rest, .inr ⟨v, hi, ?_⟩⟩, fun h h' => ?_,
        fun h h' => ?_, ?_⟩
      · simpa [h] using h'
      · simpa [h] using h'
      · simp [h] at h'
      · simp [h] at h'
      · rintro (h | h | h) <;> exact absurd rfl h
    | cfg v ha hb =>
      subst ha
      refine ⟨fun h h' => ?_, fun h h' => ?_, fun h h' => ?_, fun h h' => ?_, fun _ => ⟨rest, .inr ⟨v, hi, hb⟩⟩⟩
      all_goals exact Bool.noConfusion (h.symm.trans h')

end Sys2Proof.Claims
end

section
/-! PROOFS. The whole machine: errors, result codes, writers and the host's own bits (00_scope.md section 4, 10_state.md
sections 1, 2 and 4, 60_exceptions.md section 1). -/

open Sys2Proof Sys2Proof.Machine

namespace Sys2Proof.Claims

/-- Settles O56: a command reports an error and changes nothing else, reports OOO beside SEQCLS, or completes with OK. -/
theorem commandErrorAtomicity : Obligations.CommandErrorAtomicity := by
  intro i s
  obtain ⟨t, ht, hb⟩ := exec_next i s
  refine ⟨t, ht, hb, exec_errs_of_result_ok ht, fun hr => ⟨exec_errs_of_result_ne_ok ht hr, ?_⟩⟩
  rcases exec_shape i s with ⟨he, _⟩ | ⟨he, hi⟩ | ⟨he, _⟩ <;> cases ht.symm.trans he
  · exact ⟨State.byteAt_congr rfl rfl, fun _ => rfl, rfl⟩
  · exact ⟨State.byteAt_congr rfl rfl, fun hn => absurd hi hn, rfl⟩
  · exact absurd rfl hr

/-- Settles O57: the errors of each command are those of its own checks. -/
theorem resultCodesOfCommands : Obligations.ResultCodesOfCommands := by
  intro i s t h
  cases exec_commandResult h with
  | error hc => exact .inr hc
  | outOfOrder hi => exact .inr (hi ▸ List.mem_singleton.2 rfl)
  | done _ => exact .inl rfl

/-- Settles O58: each register and each buffer is left by every command that the rules do not name for it. -/
theorem registerWriters : Obligations.RegisterWriters := by
  intro i s t h
  have hk := exec_keepsUnwritten h
  have hw := exec_namedWrites h
  have hregs := hw.regs
  have hseed : t.bufSeed = s.bufSeed := (congrArg State.bufSeed hk :)
  have kept {α : Type} {b : Bool} {x y : α} (he : (if b then x else y) = x) (hb : b = false) : x = y :=
    he.symm.trans (if_neg (Bool.eq_false_iff.1 hb))
  refine ⟨(congrArg State.variant hk :), (congrArg State.mode hk :), (congrArg State.conv hk :),
    (congrArg State.cmdLatch hk :), (congrArg State.ovr hk :), kept (congrArg State.crc hregs :),
    kept (congrArg State.csum hregs :), kept (congrArg State.expect hregs :),
    fun hf => ⟨kept (congrArg State.hdr hregs :) hf, kept (congrArg State.seq hregs :) hf,
      kept (congrArg State.z0 hregs :) hf⟩,
    fun hi => (congrArg State.plen hregs :).symm.trans (if_neg hi), kept (congrArg State.flen hregs :),
    kept (congrArg State.ocnt hregs :), kept (congrArg State.carry hregs :), kept (congrArg State.seqCls hregs :),
    fun hi x hx => hw.byteAt_eq hseed ?_, fun hf x hx => hw.byteAt_eq hseed ?_, fun ho x hx => hw.byteAt_eq hseed ?_⟩
  · rintro a n (⟨he, -, -⟩ | ⟨-, h1, h2⟩ | ⟨-, h1, h2⟩)
    · exact absurd he hi
    · omega
    · omega
  · rintro a n (⟨-, h1, h2⟩ | ⟨he, -, -⟩ | ⟨-, h1, h2⟩)
    · omega
    · exact Bool.noConfusion (hf.symm.trans he)
    · omega
  · rintro a n (⟨-, h1, h2⟩ | ⟨-, h1, h2⟩ | ⟨he, -, -⟩)
    · omega
    · omega
    · exact Bool.noConfusion (ho.symm.trans he)

/-- Settles O59: each of the three kinds of step by what it does to the sticky bits and CFG. -/
theorem stickyBitsAndCfgHostOwned : Obligations.StickyBitsAndCfgHostOwned := by
  intro s t h
  rcases step_cases s with ⟨hd, hs⟩ | ⟨-, -, hs⟩ | ⟨i, rest, -, hi, hs⟩
  · exact hostOwnsFlags_complete ((completionDue_iff s).1 hd).1 (hs.symm.trans h)
  · cases hs.symm.trans h
    exact hostOwnsFlags_of_same ⟨rfl, rfl, rfl, rfl, rfl⟩
  · cases hs.symm.trans h
    exact hostOwnsFlags_takeInput hi

end Sys2Proof.Claims
end
